-- ==== Sys2Proof/Word.lean ====
section
/-! DEFINITION. The machine's words: 32-bit registers and addresses, 16-bit halfwords of code, 8-bit bytes
(00_scope.md R6, R9). -/

namespace Sys2Proof

/-- A register, an address or a memory word (00_scope.md R6: XLEN is 32). -/
abbrev Word := BitVec 32

/-- One halfword of code or data (20_memory.md R105). -/
abbrev Half := BitVec 16

/-- One byte, the addressable unit (20_memory.md R100). -/
abbrev Byte := BitVec 8

/-- A low register number, R0 to R7 (30_encoding.md R142). -/
abbrev LowReg := BitVec 3

/-- A register number 0 to 15; 13 names SP, 14 LR, 15 PC (30_encoding.md R145). -/
abbrev Reg := BitVec 4

/-- A register list of LDM, STM, PUSH, POP: bit i set means Ri is listed (30_encoding.md R142). -/
abbrev RegList := BitVec 8

end Sys2Proof
end

