-- ==== Sys2Proof/Config.lean ====
section
/-! DEFINITION. What the chip or its platform fixes: the read-only registers' values, the free values that the
spec leaves open, and the platform parameters of 00_scope.md R7. -/

namespace Sys2Proof

namespace Config

/-- The free values: the k-th value the spec leaves open (UNKNOWN_32 of 00_scope.md R10). It has no body, so no
proof can see a value of it; the counter `free` of State picks a fresh one for each use.
DESIGN CHOICE (notes/assumptions/6.md). -/
opaque freeWord : Nat → Word

/-- CPUID, read-only (10_state.md R51). -/
def cpuid : Word := 0x410CC200#32

/-- CCR, read-only: STKALIGN and UNALIGN_TRP read 1 (10_state.md R55, conflict C13, decision D16). -/
def ccr : Word := 0x00000208#32

/-- SYST_CALIB, read-only: NOREF and SKEW read 1, TENMS 0 (10_state.md R64, conflict C14, decision D17). -/
def systCalib : Word := 0xC0000000#32

/-- What a byte of memory that nothing has written reads as. DESIGN CHOICE, unsafe: the spec leaves the contents
of memory to the platform (00_scope.md R8; notes/assumptions/3.md). -/
def blankByte : Byte := 0#8

end Config

/-- What answers at an address outside the private peripheral bus: `MemMap` of 00_scope.md R7. A ROM's answer to a
write is the platform's choice (20_memory.md R105). -/
inductive MemKind where
  | absent
  | ram
  | romIgnore
  | romBusError
  | device
  deriving DecidableEq, Repr

/-- One entry of the platform's memory map: the addresses base to base + size - 1. -/
structure Region where
  base : Nat
  size : Nat
  kind : MemKind
  deriving DecidableEq, Repr

/-- How the device on an interrupt line signals: `IrqKind` of 00_scope.md R7 (60_exceptions.md R441). -/
inductive IrqKind where
  | level
  | pulse
  deriving DecidableEq, Repr

/-- How WFE is treated: `WfeMode` of 00_scope.md R7 (45_miscellaneous.md R384, 92_eei_decisions.md D8). -/
inductive WfeMode where
  | nondeterministic
  | refuse
  deriving DecidableEq, Repr

/-- The platform parameters of 00_scope.md R7. Only `MemMap` can change as the machine runs: by a store to a device
that switches it (70_reset_and_hazards.md R493). -/
structure Platform where
  /-- `MemMap`: the first entry that holds an address decides; an address in no entry is absent -/
  memMap : List Region
  /-- `IrqKind`: bit n is set where the device on line n drives pulses, clear where it drives a level -/
  pulseLines : BitVec 32
  /-- `WfeMode` -/
  wfeMode : WfeMode
  /-- an external reference clock for SysTick exists (60_exceptions.md R452) -/
  refClock : Bool
  /-- a debugger is attached (45_miscellaneous.md R370) -/
  debugger : Bool
  deriving DecidableEq, Repr

/-- `IrqKind(n)` of 00_scope.md R7. -/
def Platform.irqKind (p : Platform) (n : Nat) : IrqKind := if p.pulseLines.getLsbD n then .pulse else .level

/-- The platform State.reset holds: every Normal region is RAM, every Device region a device, every line a level, WFE
with its generic behaviour, no reference clock, no debugger. DESIGN CHOICE for the memory map, the lines and WFE
(notes/assumptions/10.md, 12.md); the two Booleans are the spec's defaults (92_eei_decisions.md D9, D19). -/
def Platform.default : Platform where
  memMap :=
    [ ⟨0x00000000, 0x20000000, .ram⟩,
      ⟨0x20000000, 0x20000000, .ram⟩,
      ⟨0x40000000, 0x20000000, .device⟩,
      ⟨0x60000000, 0x40000000, .ram⟩,
      ⟨0xA0000000, 0x40000000, .device⟩,
      ⟨0xE0100000, 0x1FF00000, .device⟩ ]
  pulseLines := 0#32
  wfeMode := .nondeterministic
  refClock := false
  debugger := false

/-- A step of an agent other than the processor (00_scope.md R13). -/
inductive AgentStep where
  /-- so many cycles of the timer's clock (60_exceptions.md R450) -/
  | ticks (n : Nat)
  /-- a sampling instant, with the levels of the 32 interrupt lines at it (60_exceptions.md R440) -/
  | sampled (lines : BitVec 32)
  /-- an external event is signalled (60_exceptions.md R464) -/
  | externalEvent
  deriving DecidableEq, Repr

/-- What happens outside between two processor steps: any steps of the other agents, in any order, and then one
sampling of the interrupt lines at these levels, since there is at least one (60_exceptions.md R440, 00_scope.md
R13). -/
structure Sample where
  steps : List AgentStep
  lines : BitVec 32
  deriving DecidableEq, Repr

/-- What a device answers to one access, and what the access does to the platform: the handler of 00_scope.md R7 and
20_memory.md R105, written down access by access (notes/assumptions/11.md). -/
structure DeviceAnswer where
  /-- what a read gives -/
  value : Word
  /-- the memory map a store puts in place, if it switches it (70_reset_and_hazards.md R493) -/
  newMap : Option (List Region)
  deriving DecidableEq, Repr

/-- An interruption inside an instruction: what is sampled while LDM, STM, PUSH or POP runs, and after how many word
transfers it is abandoned if an exception can then be taken (41_memory_access.md R243); or, with that number unused, what
is sampled after an SVC has made SVCall pending and before its entry (45_miscellaneous.md R383). -/
structure MidSample where
  after : Nat
  sample : Sample
  deriving DecidableEq, Repr

/-- The environment's choices for one step (00_scope.md R13, R16). DESIGN CHOICE: the environment's freedom is
written down as plain data (notes/assumptions/9.md). -/
structure EnvStep where
  /-- reset is asserted during this step (70_reset_and_hazards.md R480) -/
  reset : Bool
  /-- what is sampled before the step -/
  sample : Sample
  /-- a spurious wake-up: a sleeping processor wakes, a WFI or WFE completes at once (60_exceptions.md R460) -/
  wake : Bool
  /-- an interruption inside a multiple transfer, or before the exception entry of an SVC -/
  mid : Option MidSample
  /-- reset is asserted inside a multiple transfer, after so many word transfers (70_reset_and_hazards.md R480) -/
  resetInTransfer : Option Nat
  /-- reset is asserted inside the stacking of an exception entry, after so many stores (70_reset_and_hazards.md
  R480) -/
  resetInEntry : Option Nat
  deriving DecidableEq, Repr

end Sys2Proof
end

