-- ==== Sys2Proof/Machine/State.lean ====
section
/-! DEFINITION. The machine's state as plain data, the reasons a step can stop, and the state after reset. Every field
is listed in INVENTORY.md under '## State' with the rule of spec/ that names it. -/

namespace Sys2Proof.Machine

/-- The condition flags of the APSR (10_state.md R27). -/
structure Flags where
  n : Bool
  z : Bool
  c : Bool
  v : Bool
  deriving DecidableEq, Repr

/-- What ends a sleep (60_exceptions.md R461, R462): sleep entered by WFI or on exit from a handler, or by WFE. -/
inductive WakeSet where
  | wfi
  | wfe
  deriving DecidableEq, Repr

/-- The run state (10_state.md R37). -/
inductive RunState where
  | running
  | sleeping (wakeSet : WakeSet)
  | lockup
  | inReset
  deriving DecidableEq, Repr

/-- The interrupt controller and the state of every exception. Bit n of `pending` and `active` belongs to exception
number n (10_state.md R36); bit m of `enable` and `linePrev` to IRQ m (R43, 60_exceptions.md R440). A priority is
the level 0 to 3 in bits [7:6] of its 8-bit field (10_state.md R47). -/
structure Nvic where
  pending : BitVec 48
  active : BitVec 48
  enable : BitVec 32
  irqPrio : Vector (BitVec 2) 32
  svcPrio : BitVec 2
  pendSvPrio : BitVec 2
  sysTickPrio : BitVec 2
  linePrev : BitVec 32
  deriving DecidableEq, Repr

/-- The implemented bits of the system control register (10_state.md R54). -/
structure Scr where
  sevOnPend : Bool
  sleepDeep : Bool
  sleepOnExit : Bool
  deriving DecidableEq, Repr

/-- The system timer (10_state.md R61 to R63). -/
structure SysTick where
  enable : Bool
  tickInt : Bool
  clkSource : Bool
  countFlag : Bool
  reload : BitVec 24
  current : BitVec 24
  deriving DecidableEq, Repr

/-- The whole machine: the core, its three core peripherals, memory, the platform and the environment's choices. -/
structure State where
  r : Vector Word 13
  msp : Word
  psp : Word
  lr : Word
  pc : Word
  flags : Flags
  thumb : Bool
  ipsr : BitVec 6
  primask : Bool
  spsel : Bool
  event : Bool
  run : RunState
  nvic : Nvic
  scr : Scr
  sysTick : SysTick
  resetReq : Bool
  mem : List Host.Cell
  platform : Platform
  env : EnvStep
  future : List EnvStep
  answers : List DeviceAnswer
  free : Nat
  deriving DecidableEq, Repr

/-- Why the machine stops where the spec describes an event without its effect. Every constructor is safe: the model
stops where the hardware would go on. -/
inductive Fault where
  /-- a bus error on one of the eight stores of exception entry (60_exceptions.md R425, U26); raised by exception
  entry; safe -/
  | stackingBusError
  /-- a bus error on an unstacking load other than the PSR word through MSP (60_exceptions.md R425, U26); raised by
  exception return; safe -/
  | unstackingBusError
  /-- a bus error on one of the two reads of reset (70_reset_and_hazards.md R482, U6); raised by reset; safe -/
  | resetVectorBusError
  deriving DecidableEq, Repr

/-- Why an instruction or an access has no meaning: the cases the spec calls unpredictable, reserved or not
described, and that it has the model refuse. Every constructor is safe: nothing is claimed of what follows. -/
inductive Refusal where
  /-- no meaning yet for the instruction; raised by no meaning; safe -/
  | notModelled (mnemonic : String)
  /-- a should-be bit at the other value (30_encoding.md R161); raised by BX, BLX, CPS, MRS, MSR and the barriers -/
  | shouldBeBits
  /-- an empty register list (30_encoding.md R161, U2); raised by LDM, STM, PUSH, POP -/
  | emptyRegisterList
  /-- STM with its base in the list and not lowest (41_memory_access.md R241, U1, conflict C28) -/
  | stmBaseNotLowest
  /-- BX or BLX with SP or PC (44_branch.md R354, R355, U8) -/
  | branchSpOrPc
  /-- MRS or MSR with SP or PC as the general register (45_miscellaneous.md R379, R380, U9) -/
  | specialSpOrPc
  /-- MRS or MSR with a SYSm that names no register (45_miscellaneous.md R378) -/
  | unknownSysm
  /-- ADD PC, PC (42 R264, U10) -/
  | addPcPc
  /-- CMP in the high-register encoding with both low or with PC (42 R307, U17) -/
  | cmpHighOperands
  /-- BLX to bits [31:28] all ones in Handler mode (40_instruction_conventions.md R196, U25) -/
  | blxExcReturn
  /-- a reserved EXC_RETURN value (60_exceptions.md R416, U5) -/
  | reservedExcReturn
  /-- an EXC_RETURN that disagrees with the set of active exceptions (60_exceptions.md R416, U5) -/
  | inconsistentExcReturn
  /-- a stacked return address with bit 0 set (60_exceptions.md R417, U27) -/
  | oddReturnAddress
  /-- a stacked exception number that disagrees with the mode returned to, is reserved or not active
  (60_exceptions.md R417, U5, U15) -/
  | badStackedIpsr
  /-- a byte or halfword access to the private peripheral bus (20_memory.md R110, D10) -/
  | ppbAccessSize
  /-- a private peripheral bus address with no listed register (20_memory.md R110, D11) -/
  | ppbUnlisted
  /-- a write of 1 to ICSR.NMIPENDSET on a chip without NMI (60_exceptions.md R434, D7) -/
  | nmiAbsent
  /-- a keyed write of 1 to AIRCR.VECTCLRACTIVE (10_state.md R53, U4) -/
  | vectClrActive
  /-- WFE on a platform whose `WfeMode` is `refuse` (45_miscellaneous.md R384, D8) -/
  | wfeUnusable
  /-- BKPT with a debugger attached: debug state is out of scope (45_miscellaneous.md R370, 00_scope.md R5) -/
  | debugState
  deriving DecidableEq, Repr

/-- What one instruction or one step answers. -/
abbrev Result := Host.Outcome State Fault Refusal

/-- Nothing happens outside: no reset, no line asserted, no tick, no event, no wake-up. -/
def quietEnv : EnvStep where
  reset := false
  sample := ⟨[], 0⟩
  wake := false
  mid := none
  resetInTransfer := none
  resetInEntry := none

/-- The machine right after reset (10_state.md R90, 70_reset_and_hazards.md R480), with the blank memory of the
platform: the two words reset loads, at addresses 0 and 4, read 0 there, so MSP and PC are 0 and T is 0. R0 to R12,
LR, PSP, the flags, SYST_RVR, SYST_CVR and the event register are unknown in the spec; their values here are
DESIGN CHOICES (notes/assumptions/2.md, 3.md, 4.md). -/
def State.reset : State where
  r := Vector.replicate 13 0#32
  msp := 0#32
  psp := 0#32
  lr := 0#32
  pc := 0#32
  flags := ⟨false, false, false, false⟩
  thumb := false
  ipsr := 0#6
  primask := false
  spsel := false
  event := false
  run := .running
  nvic :=
    { pending := 0#48, active := 0#48, enable := 0#32, irqPrio := Vector.replicate 32 0#2,
      svcPrio := 0#2, pendSvPrio := 0#2, sysTickPrio := 0#2, linePrev := 0#32 }
  scr := ⟨false, false, false⟩
  sysTick :=
    { enable := false, tickInt := false, clkSource := false, countFlag := false, reload := 0#24, current := 0#24 }
  resetReq := false
  mem := []
  platform := Platform.default
  env := quietEnv
  future := []
  answers := []
  free := 0

end Sys2Proof.Machine
end

