-- ==== Sys2Proof/Machine/Memory.lean ====
section
/-! DEFINITION. The stored bytes: a list of (address, byte) pairs in one canonical form, addresses strictly rising and
no entry equal to the blank byte, so that equal memories are equal data. -/

namespace Sys2Proof.Machine

/-- The byte at an address; an unlisted address reads the blank byte (notes/assumptions/3.md). -/
def Memory.read : List Host.Cell → Nat → Byte
  | [], _ => Config.blankByte
  | (a, b) :: m, addr => if addr = a then b else Memory.read m addr

/-- Put a byte in front of a memory whose addresses all lie above it, keeping the canonical form. -/
def Memory.cons (addr : Nat) (b : Byte) (m : List Host.Cell) : List Host.Cell :=
  if b = Config.blankByte then m else (addr, b) :: m

/-- Write one byte, keeping the canonical form. -/
def Memory.write : List Host.Cell → Nat → Byte → List Host.Cell
  | [], addr, b => Memory.cons addr b []
  | (a, x) :: m, addr, b =>
    if addr < a then Memory.cons addr b ((a, x) :: m)
    else if addr = a then Memory.cons addr b m
    else (a, x) :: Memory.write m addr b

/-- Addresses are at least lo and strictly rising, below 2^32, and no byte is the blank byte. -/
def Memory.wfFrom : Nat → List Host.Cell → Bool
  | _, [] => true
  | lo, (a, b) :: m => decide (lo ≤ a) && decide (a < 2 ^ 32) && b != Config.blankByte && Memory.wfFrom (a + 1) m

/-- The canonical form. -/
def Memory.wf (m : List Host.Cell) : Bool := Memory.wfFrom 0 m

/-- The n bytes from an address on as one little-endian number (20_memory.md R104, R105). -/
def Memory.load (m : List Host.Cell) (addr : Nat) : Nat → Nat
  | 0 => 0
  | n + 1 => (Memory.read m addr).toNat + 256 * Memory.load m (addr + 1) n

/-- Store the low n bytes of a number little-endian from an address on (20_memory.md R104, R105). -/
def Memory.store (m : List Host.Cell) (addr : Nat) : Nat → Nat → List Host.Cell
  | 0, _ => m
  | n + 1, v => Memory.store (Memory.write m addr (BitVec.ofNat 8 v)) (addr + 1) n (v / 256)

/-- Store bytes one after the other from an address on. -/
def Memory.storeBytes (m : List Host.Cell) (addr : Nat) : List Byte → List Host.Cell
  | [] => m
  | b :: bs => Memory.storeBytes (Memory.write m addr b) (addr + 1) bs

end Sys2Proof.Machine
end

