-- ==== Sys2Proof/Machine/Nvic.lean ====
section
/-! DEFINITION. Exceptions as the interrupt controller sees them: pending and active bits, priorities, the candidate,
and the sampling of the interrupt lines (60_exceptions.md sections 1, 3, 8). -/

namespace Sys2Proof.Machine

/-- NMI's exception number; it is never pended on this chip (10_state.md R28, 92_eei_decisions.md D7). -/
def excNmi : Nat := 2
/-- HardFault's exception number (10_state.md R28). -/
def excHardFault : Nat := 3
/-- SVCall's exception number (10_state.md R28). -/
def excSvCall : Nat := 11
/-- PendSV's exception number (10_state.md R28). -/
def excPendSv : Nat := 14
/-- SysTick's exception number (10_state.md R28). -/
def excSysTick : Nat := 15

/-- Every exception number that has a pending and an active bit, rising (10_state.md R36). -/
def exceptionNumbers : List Nat :=
  [2, 3, 11, 14, 15,
   16, 17, 18, 19, 20, 21, 22, 23, 24, 25, 26, 27, 28, 29, 30, 31,
   32, 33, 34, 35, 36, 37, 38, 39, 40, 41, 42, 43, 44, 45, 46, 47]

/-- The word with bit n set. -/
def bitMask (w n : Nat) : BitVec w := BitVec.ofNat w (2 ^ n)

/-- v with bit n set. -/
def setBit {w : Nat} (v : BitVec w) (n : Nat) : BitVec w := v ||| bitMask w n

/-- v with bit n clear. -/
def clearBit {w : Nat} (v : BitVec w) (n : Nat) : BitVec w := v &&& ~~~(bitMask w n)

/-- Make an exception pending (60_exceptions.md R403). -/
def Nvic.pend (v : Nvic) (n : Nat) : Nvic := { v with pending := setBit v.pending n }

/-- Remove an exception's pending state. -/
def Nvic.unpend (v : Nvic) (n : Nat) : Nvic := { v with pending := clearBit v.pending n }

/-- The exception's handler starts: no longer pending, active (60_exceptions.md R412 step 3). -/
def Nvic.activate (v : Nvic) (n : Nat) : Nvic :=
  { v with pending := clearBit v.pending n, active := setBit v.active n }

/-- The exception's handler ends (60_exceptions.md R417). -/
def Nvic.deactivate (v : Nvic) (n : Nat) : Nvic := { v with active := clearBit v.active n }

/-- HardFault in place of an exception whose vector could not be fetched: the exception stays pending and is not
active, HardFault is active (60_exceptions.md R425). -/
def Nvic.derivedHardFault (v : Nvic) (n : Nat) : Nvic :=
  { v with pending := setBit v.pending n, active := setBit (clearBit v.active n) excHardFault }

/-- A priority level as the number priorities are compared by: 0, 64, 128 or 192 (60_exceptions.md R406). -/
def levelPriority (level : BitVec 2) : Int := 64 * (level.toNat : Int)

/-- The base execution priority of Thread mode with nothing active (60_exceptions.md R407, D20). -/
def threadPriority : Int := 256

/-- The priority of an exception; a lower number is a higher priority (60_exceptions.md R406). -/
def Nvic.priority (v : Nvic) (n : Nat) : Int :=
  if n = 1 then -3
  else if n = excNmi then -2
  else if n = excHardFault then -1
  else if n = excSvCall then levelPriority v.svcPrio
  else if n = excPendSv then levelPriority v.pendSvPrio
  else if n = excSysTick then levelPriority v.sysTickPrio
  else if 16 ≤ n then levelPriority (v.irqPrio.toList.getD (n - 16) 0)
  else threadPriority

/-- Only interrupts have enable bits (60_exceptions.md R407). -/
def Nvic.enabled (v : Nvic) (n : Nat) : Bool := decide (n < 16) || v.enable.getLsbD (n - 16)

/-- The exceptions that are pending and enabled, rising: the set S of 60_exceptions.md R407. -/
def Nvic.waiting (v : Nvic) : List Nat :=
  exceptionNumbers.filter fun n => v.pending.getLsbD n && v.enabled n

/-- Of the exceptions in a list the one of least priority number; among equals the first. -/
def Nvic.first (v : Nvic) : List Nat → Option Nat
  | [] => none
  | n :: ns =>
    match v.first ns with
    | none => some n
    | some m => if v.priority m < v.priority n then some m else some n

/-- The exception to be taken next: among those pending and enabled the one of least priority number, among equals
the least number (60_exceptions.md R407). -/
def Nvic.candidate (v : Nvic) : Option Nat := v.first v.waiting

/-- The least priority number of the active exceptions, 256 with none (60_exceptions.md R407). -/
def Nvic.activePriority (v : Nvic) : Int :=
  (exceptionNumbers.filter fun n => v.active.getLsbD n).foldr (fun n p => min (v.priority n) p) threadPriority

/-- The execution priority without its PRIMASK line (60_exceptions.md R465). -/
def State.execPriorityIgnoringPrimask (s : State) : Int := s.nvic.activePriority

/-- The execution priority (60_exceptions.md R407, R408). -/
def State.execPriority (s : State) : Int :=
  if s.primask then min s.nvic.activePriority 0 else s.nvic.activePriority

/-- The candidate, if its priority is above a given execution priority. -/
def Nvic.candidateAbove (v : Nvic) (p : Int) : Option Nat :=
  match v.candidate with
  | some n => if v.priority n < p then some n else none
  | none => none

/-- The exception to take at this boundary, if any: the test of 60_exceptions.md R410. -/
def State.preempting (s : State) : Option Nat := s.nvic.candidateAbove s.execPriority

/-- The bits of IRQ0 to IRQ31 in a vector of exception bits (10_state.md R42). -/
def irqBits (v : BitVec 48) : BitVec 32 := BitVec.ofNat 32 (v.toNat / 2 ^ 16)

/-- The exception bits of a word of IRQ bits (10_state.md R42). -/
def ofIrqBits (w : BitVec 32) : BitVec 48 := BitVec.ofNat 48 (w.toNat * 2 ^ 16)

/-- Make the given interrupts pending; with SEVONPEND every one that was not pending sets the event register
(60_exceptions.md R430, R440, R464). -/
def State.pendIrqs (s : State) (irqs : BitVec 32) : State :=
  { s with
    nvic := { s.nvic with pending := s.nvic.pending ||| ofIrqBits irqs }
    event := s.event || (s.scr.sevOnPend && (irqs &&& ~~~(irqBits s.nvic.pending)) != 0) }

/-- The interrupts that a sampling of the lines makes pending: a line asserted whose interrupt is neither pending nor
active, or a rising edge (60_exceptions.md R440). -/
def Nvic.latched (v : Nvic) (lines : BitVec 32) : BitVec 32 :=
  (lines &&& ~~~(irqBits v.pending) &&& ~~~(irqBits v.active)) ||| (lines &&& ~~~v.linePrev)

/-- Remember the levels of the lines for the next sampling (60_exceptions.md R440). -/
def State.rememberLines (s : State) (lines : BitVec 32) : State :=
  { s with nvic := { s.nvic with linePrev := lines } }

/-- One sampling of the 32 interrupt lines (60_exceptions.md R440). -/
def State.sampleLines (s : State) (lines : BitVec 32) : State :=
  (s.pendIrqs (s.nvic.latched lines)).rememberLines lines

end Sys2Proof.Machine
end

