-- ==== Sys2Proof/Machine/SysTick.lean ====
section
/-! DEFINITION. The system timer's counting (60_exceptions.md section 9), and what happens outside the core between
two processor steps. -/

namespace Sys2Proof.Machine

/-- The timer's clock runs: the processor clock, or a reference clock if the platform has one
(60_exceptions.md R452). -/
def State.sysTickClocked (s : State) : Bool :=
  s.sysTick.enable && (s.sysTick.clkSource || s.platform.refClock)

/-- Make SysTick pending from the timer; with SEVONPEND this sets the event register if it was not pending
(60_exceptions.md R450, R464). -/
def State.pendSysTick (s : State) : State :=
  { s with
    nvic := s.nvic.pend excSysTick
    event := s.event || (s.scr.sevOnPend && !s.nvic.pending.getLsbD excSysTick) }

/-- One counting step with the clock running (60_exceptions.md R450): reload from 0, else count down, and at the
transition from 1 to 0 set COUNTFLAG and, with TICKINT, request the exception. -/
def State.count (s : State) : State :=
  if s.sysTick.current = 0 then
    { s with sysTick := { s.sysTick with current := s.sysTick.reload } }
  else if s.sysTick.current = 1 then
    let s' := { s with sysTick := { s.sysTick with current := 0, countFlag := true } }
    if s.sysTick.tickInt then s'.pendSysTick else s'
  else
    { s with sysTick := { s.sysTick with current := s.sysTick.current - 1 } }

/-- One cycle of the timer's clock (60_exceptions.md R450, R452). -/
def State.tick (s : State) : State := if s.sysTickClocked then s.count else s

/-- Several cycles of the timer's clock. -/
def State.ticks (s : State) : Nat → State
  | 0 => s
  | n + 1 => s.tick.ticks n

/-- Set the event register: an external event, or SEV (60_exceptions.md R464). -/
def State.setEvent (s : State) : State := { s with event := true }

/-- One step of an agent other than the processor (00_scope.md R13). -/
def State.agentStep (s : State) : AgentStep → State
  | .ticks n => s.ticks n
  | .sampled lines => s.sampleLines lines
  | .externalEvent => s.setEvent

/-- Steps of the other agents, in order. -/
def State.agentSteps (s : State) : List AgentStep → State
  | [] => s
  | a :: as => (s.agentStep a).agentSteps as

/-- The other agents' steps between two processor steps, the last a sampling of the lines (00_scope.md R13,
60_exceptions.md R440). -/
def State.takeSample (s : State) (sm : Sample) : State := (s.agentSteps sm.steps).sampleLines sm.lines

/-- What the agents other than the processor do before a processor step, as the environment's schedule says
(00_scope.md R13). -/
def State.agents (s : State) : State := s.takeSample s.env.sample

end Sys2Proof.Machine
end

