-- ==== Sys2Proof/Machine/Access.lean ====
section
/-! DEFINITION. The outcomes of a memory access or of a part of an instruction, the fault causes, and free values. -/

namespace Sys2Proof.Machine

/-- The nine fault causes (60_exceptions.md R420). The hardware records none of them (R421): a cause is a label for
the reader. -/
inductive FaultCause where
  | svcPriority
  | bkptNoDebugger
  | busError
  | executeNever
  | fetchBusError
  | vectorBusError
  | undefinedInstruction
  | notThumb
  | unaligned
  deriving DecidableEq, Repr

/-- What an access answers: a value and the state after it; a fault, with the state that the accesses made before it
left; or a refusal. -/
inductive Access (α : Type) where
  | ok (value : α) (s : State)
  | abort (cause : FaultCause) (s : State)
  | refused (reason : Refusal)
  deriving DecidableEq, Repr

/-- Go on with the value and the state of an access that succeeded. -/
def Access.bind {α β : Type} (m : Access α) (k : α → State → Access β) : Access β :=
  match m with
  | .ok a s => k a s
  | .abort c s => .abort c s
  | .refused r => .refused r

/-- An access whose fault, if any, has another cause. -/
def Access.withCause {α : Type} (m : Access α) (cause : FaultCause) : Access α :=
  match m with
  | .ok a s => .ok a s
  | .abort _ s => .abort cause s
  | .refused r => .refused r

/-- The next free value (UNKNOWN_32 of 00_scope.md R10; notes/assumptions/6.md). -/
def State.freeValue (s : State) : Word := Config.freeWord s.free

/-- The state after so many free values have been drawn. -/
def State.drawn (s : State) (k : Nat) : State := { s with free := s.free + k }

/-- A value whose bits outside a mask are taken from a free value: a read of a register whose other bits are reserved
or write-only (10_state.md R39, D30). -/
def mixFree (known mask free : Word) : Word := (known &&& mask) ||| (free &&& ~~~mask)

/-- A Bool as the lowest bit of a word. -/
def boolWord (p : Bool) : Word := if p then 1#32 else 0#32

/-- A Bool at bit n of a word. -/
def bitWord (p : Bool) (n : Nat) : Word := boolWord p <<< n

end Sys2Proof.Machine
end

