-- ==== Sys2Proof/Machine/Ppb.lean ====
section
/-! DEFINITION. The memory-mapped registers of the core peripherals (10_state.md section 6): their addresses, and the
effect of an aligned word read and of an aligned word write (20_memory.md R110). -/

namespace Sys2Proof.Machine

/-- The listed registers (10_state.md R42, R50, R60). -/
inductive PpbReg where
  | systCsr | systRvr | systCvr | systCalib
  | iser | icer | ispr | icpr
  | ipr (k : BitVec 3)
  | cpuid | icsr | aircr | scr | ccr | shpr2 | shpr3
  deriving DecidableEq, Repr

/-- The register at an address (10_state.md R42, R50, R60). -/
def ppbRegAt (addr : Word) : Option PpbReg :=
  if addr = 0xE000E010#32 then some .systCsr
  else if addr = 0xE000E014#32 then some .systRvr
  else if addr = 0xE000E018#32 then some .systCvr
  else if addr = 0xE000E01C#32 then some .systCalib
  else if addr = 0xE000E100#32 then some .iser
  else if addr = 0xE000E180#32 then some .icer
  else if addr = 0xE000E200#32 then some .ispr
  else if addr = 0xE000E280#32 then some .icpr
  else if 0xE000E400 ≤ addr.toNat ∧ addr.toNat < 0xE000E420 ∧ addr.toNat % 4 = 0 then
    some (.ipr (BitVec.ofNat 3 (addr.toNat / 4)))
  else if addr = 0xE000ED00#32 then some .cpuid
  else if addr = 0xE000ED04#32 then some .icsr
  else if addr = 0xE000ED0C#32 then some .aircr
  else if addr = 0xE000ED10#32 then some .scr
  else if addr = 0xE000ED14#32 then some .ccr
  else if addr = 0xE000ED1C#32 then some .shpr2
  else if addr = 0xE000ED20#32 then some .shpr3
  else none

/-! ### Reads -/

/-- A priority level in its 8-bit field: bits [7:6], the others read 0 (10_state.md R47). -/
def levelByte (level : BitVec 2) : BitVec 8 := level ++ 0#6

/-- IPRk: the fields of IRQ(4k) to IRQ(4k+3), the first in the lowest byte (10_state.md R47). -/
def Nvic.iprWord (v : Nvic) (k : BitVec 3) : Word :=
  let level := fun j => v.irqPrio.toList.getD (4 * k.toNat + j) 0
  levelByte (level 3) ++ levelByte (level 2) ++ levelByte (level 1) ++ levelByte (level 0)

/-- SYST_CSR: COUNTFLAG in bit 16, CLKSOURCE, TICKINT, ENABLE in bits 2 to 0 (10_state.md R61). -/
def SysTick.csrWord (t : SysTick) : Word :=
  bitWord t.countFlag 16 ||| bitWord t.clkSource 2 ||| bitWord t.tickInt 1 ||| bitWord t.enable 0

/-- The bits of SYST_CSR that are not reserved (10_state.md R61). -/
def csrMask : Word := 0x00010007#32

/-- SCR: SEVONPEND, SLEEPDEEP, SLEEPONEXIT in bits 4, 2, 1 (10_state.md R54). -/
def Scr.word (c : Scr) : Word :=
  bitWord c.sevOnPend 4 ||| bitWord c.sleepDeep 2 ||| bitWord c.sleepOnExit 1

/-- The bits of SCR that are not reserved (10_state.md R54). -/
def scrMask : Word := 0x00000016#32

/-- The exception number VECTPENDING shows: the candidate, 0 with none (60_exceptions.md R435). -/
def Nvic.vectPending (v : Nvic) : Nat := v.candidate.getD 0

/-- ICSR: NMIPENDSET 0, PENDSVSET, PENDSTSET, ISRPENDING, VECTPENDING, VECTACTIVE (10_state.md R52,
60_exceptions.md R432 to R435). -/
def State.icsrWord (s : State) : Word :=
  bitWord (s.nvic.pending.getLsbD excPendSv) 28 |||
  bitWord (s.nvic.pending.getLsbD excSysTick) 26 |||
  bitWord (irqBits s.nvic.pending != 0) 22 |||
  (BitVec.ofNat 32 s.nvic.vectPending <<< 12) |||
  s.ipsr.setWidth 32

/-- The bits of ICSR that are neither reserved nor write-only (10_state.md R52). -/
def icsrMask : Word := 0x9443F03F#32

/-- The bits of AIRCR that read a stated value, all of them 0: ENDIANESS, SYSRESETREQ, VECTCLRACTIVE
(10_state.md R53, decision D18). -/
def aircrMask : Word := 0x00008006#32

/-- SHPR2: PRI_11 in bits [31:24] (10_state.md R56). -/
def Nvic.shpr2Word (v : Nvic) : Word := levelByte v.svcPrio ++ 0#24

/-- The bits of SHPR2 that are not reserved (10_state.md R56). -/
def shpr2Mask : Word := 0xFF000000#32

/-- SHPR3: PRI_15 in bits [31:24], PRI_14 in bits [23:16] (10_state.md R57). -/
def Nvic.shpr3Word (v : Nvic) : Word := levelByte v.sysTickPrio ++ levelByte v.pendSvPrio ++ 0#16

/-- The bits of SHPR3 that are not reserved (10_state.md R57). -/
def shpr3Mask : Word := 0xFFFF0000#32

/-- The bits of SYST_RVR and SYST_CVR that are not reserved (10_state.md R62, R63). -/
def count24Mask : Word := 0x00FFFFFF#32

/-- Reading SYST_CSR clears COUNTFLAG (60_exceptions.md R451). -/
def State.clearCountFlag (s : State) : State := { s with sysTick := { s.sysTick with countFlag := false } }

/-- A word read of a listed register: the value, and the state after the read's side effects (20_memory.md R110).
Reserved and write-only bits read a free value (10_state.md R39). -/
def State.ppbRead (s : State) : PpbReg → Word × State
  | .systCsr => (mixFree s.sysTick.csrWord csrMask s.freeValue, (s.drawn 1).clearCountFlag)
  | .systRvr => (mixFree (s.sysTick.reload.setWidth 32) count24Mask s.freeValue, s.drawn 1)
  | .systCvr => (mixFree (s.sysTick.current.setWidth 32) count24Mask s.freeValue, s.drawn 1)
  | .systCalib => (Config.systCalib, s)
  | .iser => (s.nvic.enable, s)
  | .icer => (s.nvic.enable, s)
  | .ispr => (irqBits s.nvic.pending, s)
  | .icpr => (irqBits s.nvic.pending, s)
  | .ipr k => (s.nvic.iprWord k, s)
  | .cpuid => (Config.cpuid, s)
  | .icsr => (mixFree s.icsrWord icsrMask s.freeValue, s.drawn 1)
  | .aircr => (mixFree 0 aircrMask s.freeValue, s.drawn 1)
  | .scr => (mixFree s.scr.word scrMask s.freeValue, s.drawn 1)
  | .ccr => (Config.ccr, s)
  | .shpr2 => (mixFree s.nvic.shpr2Word shpr2Mask s.freeValue, s.drawn 1)
  | .shpr3 => (mixFree s.nvic.shpr3Word shpr3Mask s.freeValue, s.drawn 1)

/-! ### Writes -/

/-- The level a written priority field holds: its bits [7:6], which start at bit lo + 6 of the word
(10_state.md R47). -/
def levelOf (v : Word) (lo : Nat) : BitVec 2 := v.extractLsb' (lo + 6) 2

/-- Write of SYST_CSR: ENABLE, TICKINT, CLKSOURCE (60_exceptions.md R451). -/
def State.writeCsr (s : State) (v : Word) : State :=
  { s with sysTick := { s.sysTick with enable := v.getLsbD 0, tickInt := v.getLsbD 1, clkSource := v.getLsbD 2 } }

/-- Write of SYST_RVR: RELOAD only (60_exceptions.md R451). -/
def State.writeRvr (s : State) (v : Word) : State :=
  { s with sysTick := { s.sysTick with reload := v.setWidth 24 } }

/-- Write of SYST_CVR with any value: clears the count and COUNTFLAG, requests nothing (60_exceptions.md R451). -/
def State.writeCvr (s : State) : State :=
  { s with sysTick := { s.sysTick with current := 0, countFlag := false } }

/-- Write of IPRk: the four priority levels of IRQ(4k) to IRQ(4k+3) (10_state.md R47). -/
def State.writeIpr (s : State) (k : BitVec 3) (v : Word) : State :=
  { s with
    nvic := { s.nvic with
      irqPrio :=
        (((s.nvic.irqPrio.setIfInBounds (4 * k.toNat) (levelOf v 0)).setIfInBounds
          (4 * k.toNat + 1) (levelOf v 8)).setIfInBounds
          (4 * k.toNat + 2) (levelOf v 16)).setIfInBounds
          (4 * k.toNat + 3) (levelOf v 24) } }

/-- One pair of a set and a clear bit of ICSR: the pending bit after the write. Both 1 leaves a free value
(60_exceptions.md R432, R433, U3). -/
def pendingAfter (old set clear free : Bool) : Bool :=
  if set && clear then free else if set then true else if clear then false else old

/-- v with bit n at the given value. -/
def putBit {w : Nat} (v : BitVec w) (n : Nat) (p : Bool) : BitVec w := if p then setBit v n else clearBit v n

/-- Write of ICSR apart from NMIPENDSET: PENDSVSET, PENDSVCLR, PENDSTSET, PENDSTCLR in bits 28 to 25
(60_exceptions.md R432, R433). The event register is not set by it (notes/assumptions/36.md). -/
def State.writeIcsr (s : State) (v : Word) : State :=
  let sv := pendingAfter (s.nvic.pending.getLsbD excPendSv) (v.getLsbD 28) (v.getLsbD 27) (s.freeValue.getLsbD 0)
  let st := pendingAfter (s.nvic.pending.getLsbD excSysTick) (v.getLsbD 26) (v.getLsbD 25) (s.freeValue.getLsbD 1)
  { s with
    nvic := { s.nvic with pending := putBit (putBit s.nvic.pending excPendSv sv) excSysTick st }
    free := s.free + 1 }

/-- The key a write of AIRCR must carry in bits [31:16] (10_state.md R53). -/
def aircrKey : BitVec 16 := 0x05FA#16

/-- A keyed write of AIRCR with SYSRESETREQ: the request is latched (70_reset_and_hazards.md R483). -/
def State.requestReset (s : State) (req : Bool) : State := { s with resetReq := s.resetReq || req }

/-- Write of SCR (10_state.md R54). -/
def State.writeScr (s : State) (v : Word) : State :=
  { s with scr := { sevOnPend := v.getLsbD 4, sleepDeep := v.getLsbD 2, sleepOnExit := v.getLsbD 1 } }

/-- Write of SHPR2 (10_state.md R56). -/
def State.writeShpr2 (s : State) (v : Word) : State := { s with nvic := { s.nvic with svcPrio := levelOf v 24 } }

/-- Write of SHPR3 (10_state.md R57). -/
def State.writeShpr3 (s : State) (v : Word) : State :=
  { s with nvic := { s.nvic with sysTickPrio := levelOf v 24, pendSvPrio := levelOf v 16 } }

/-- Write of ISER: 1 bits enable (60_exceptions.md R436). -/
def State.enableIrqs (s : State) (v : Word) : State := { s with nvic := { s.nvic with enable := s.nvic.enable ||| v } }

/-- Write of ICER: 1 bits disable (60_exceptions.md R436). -/
def State.disableIrqs (s : State) (v : Word) : State :=
  { s with nvic := { s.nvic with enable := s.nvic.enable &&& ~~~v } }

/-- Write of ICPR: 1 bits remove the pending state; the active state stays (60_exceptions.md R431). -/
def State.unpendIrqs (s : State) (v : Word) : State :=
  { s with nvic := { s.nvic with pending := s.nvic.pending &&& ~~~(ofIrqBits v) } }

/-- A word write of a listed register (20_memory.md R110). A write to a read-only register is ignored (10_state.md
R41). NMIPENDSET is refused (60_exceptions.md R434), and so is a keyed VECTCLRACTIVE (10_state.md R53). -/
def State.ppbWrite (s : State) (v : Word) : PpbReg → Access Unit
  | .systCsr => .ok () (s.writeCsr v)
  | .systRvr => .ok () (s.writeRvr v)
  | .systCvr => .ok () s.writeCvr
  | .systCalib => .ok () s
  | .iser => .ok () (s.enableIrqs v)
  | .icer => .ok () (s.disableIrqs v)
  | .ispr => .ok () (s.pendIrqs v)
  | .icpr => .ok () (s.unpendIrqs v)
  | .ipr k => .ok () (s.writeIpr k v)
  | .cpuid => .ok () s
  | .icsr => if v.getLsbD 31 then .refused .nmiAbsent else .ok () (s.writeIcsr v)
  | .aircr =>
    if v.extractLsb' 16 16 = aircrKey then
      if v.getLsbD 1 then .refused .vectClrActive else .ok () (s.requestReset (v.getLsbD 2))
    else .ok () s
  | .scr => .ok () (s.writeScr v)
  | .ccr => .ok () s
  | .shpr2 => .ok () (s.writeShpr2 v)
  | .shpr3 => .ok () (s.writeShpr3 v)

end Sys2Proof.Machine
end

