-- ==== Sys2Proof/Machine/Bus.lean ====
section
/-! DEFINITION. The address map and the memory primitives MemRead and MemWrite (20_memory.md R101 to R111). -/

namespace Sys2Proof.Machine

/-- The private peripheral bus (20_memory.md R101). -/
def inPpb (addr : Word) : Bool := decide (0xE0000000 ≤ addr.toNat) && decide (addr.toNat ≤ 0xE00FFFFF)

/-- The execute-never regions (20_memory.md R103). -/
def executeNever (addr : Word) : Bool :=
  (decide (0x40000000 ≤ addr.toNat) && decide (addr.toNat < 0x60000000)) || decide (0xA0000000 ≤ addr.toNat)

/-- The address lies in the region. -/
def regionHolds (rg : Region) (addr : Nat) : Bool := decide (rg.base ≤ addr) && decide (addr < rg.base + rg.size)

/-- The kind the first region of a list that holds the address gives; absent with none. -/
def kindIn : List Region → Nat → MemKind
  | [], _ => .absent
  | rg :: rgs, addr => if regionHolds rg addr then rg.kind else kindIn rgs addr

/-- What answers at an address outside the private peripheral bus (00_scope.md R7). -/
def State.kindAt (s : State) (addr : Word) : MemKind := kindIn s.platform.memMap addr.toNat

/-- The stored value of n bytes from an address on, zero-extended (20_memory.md R105). -/
def State.stored (s : State) (n : Nat) (addr : Word) : Word := BitVec.ofNat 32 (Memory.load s.mem addr.toNat n)

/-- The state with n bytes of a value stored from an address on (20_memory.md R105). -/
def State.store (s : State) (n : Nat) (addr v : Word) : State :=
  { s with mem := Memory.store s.mem addr.toNat n v.toNat }

/-- A value of n bytes: what is above them is 0. -/
def lowBytes (n : Nat) (v : Word) : Word := BitVec.ofNat 32 (v.toNat % 2 ^ (8 * n))

/-- What a device answers to a read: the next answer of the environment, a free value where it has none left
(20_memory.md R105; notes/assumptions/11.md). -/
def State.deviceValue (s : State) : Word :=
  match s.answers with
  | [] => s.freeValue
  | a :: _ => a.value

/-- The state after a read of a device: the answer, or the free value, is used up. -/
def State.deviceRead (s : State) : State :=
  match s.answers with
  | [] => s.drawn 1
  | _ :: as => { s with answers := as }

/-- Put a memory map in place. -/
def State.setMap (s : State) (memMap : List Region) : State :=
  { s with platform := { s.platform with memMap := memMap } }

/-- The state after a store to a device: the answer is used up, and the memory map is the one the device switches to,
for the next access in program order (20_memory.md R105, 70_reset_and_hazards.md R493). What the device makes of the
stored value shows in its later answers only (notes/assumptions/11.md). -/
def State.deviceWritten (s : State) : State :=
  match s.answers with
  | [] => s
  | a :: as => { s.setMap (a.newMap.getD s.platform.memMap) with answers := as }

/-- MemRead (20_memory.md R105): an aligned read of n bytes, n being 1, 2 or 4, zero-extended. -/
def memRead (n : Nat) (addr : Word) (s : State) : Access Word :=
  if addr.toNat % n ≠ 0 then .abort .unaligned s
  else if inPpb addr then
    if n ≠ 4 then .refused .ppbAccessSize
    else
      match ppbRegAt addr with
      | some reg => .ok (s.ppbRead reg).1 (s.ppbRead reg).2
      | none => .refused .ppbUnlisted
  else
    match s.kindAt addr with
    | .absent => .abort .busError s
    | .ram => .ok (s.stored n addr) s
    | .romIgnore => .ok (s.stored n addr) s
    | .romBusError => .ok (s.stored n addr) s
    | .device => .ok (lowBytes n s.deviceValue) s.deviceRead

/-- MemWrite (20_memory.md R105): an aligned write of the low n bytes of a value, n being 1, 2 or 4. -/
def memWrite (n : Nat) (addr v : Word) (s : State) : Access Unit :=
  if addr.toNat % n ≠ 0 then .abort .unaligned s
  else if inPpb addr then
    if n ≠ 4 then .refused .ppbAccessSize
    else
      match ppbRegAt addr with
      | some reg => s.ppbWrite v reg
      | none => .refused .ppbUnlisted
  else
    match s.kindAt addr with
    | .absent => .abort .busError s
    | .ram => .ok () (s.store n addr v)
    | .romIgnore => .ok () s
    | .romBusError => .abort .busError s
    | .device => .ok () s.deviceWritten

/-- Word reads at rising addresses 4 apart, as LDM, POP and unstacking make them (20_memory.md R108). -/
def loadWords : Nat → Word → State → Access (List Word)
  | 0, _, s => .ok [] s
  | n + 1, addr, s =>
    (memRead 4 addr s).bind fun v s1 => (loadWords n (addr + 4) s1).bind fun vs s2 => .ok (v :: vs) s2

/-- Word writes at rising addresses 4 apart, as STM, PUSH and stacking make them (20_memory.md R108). -/
def storeWords : List Word → Word → State → Access Unit
  | [], _, s => .ok () s
  | v :: vs, addr, s => (memWrite 4 addr v s).bind fun _ s1 => storeWords vs (addr + 4) s1

end Sys2Proof.Machine
end

