-- ==== Sys2Proof/Syntax.lean ====
section
/-! DEFINITION. The instructions: one constructor per row of spec/opcode_table.json, in the table's order. The fields
are the encoding's fields (30_encoding.md R142). Should-be bits, written (0) and (1) in the formats, are a field `sb`
of the instructions that have them, most significant bit first, so that decoding loses no bit
(notes/assumptions/21.md). -/

namespace Sys2Proof

/-- The fourteen conditions of B<cond> (40_instruction_conventions.md R191). -/
inductive Cond where
  | eq | ne | cs | cc | mi | pl | vs | vc | hi | ls | ge | lt | gt | le
  deriving DecidableEq, Repr

/-- The instructions of the Cortex-M0 (40_instruction_conventions.md R180). -/
inductive Instr where
  /-- LSLS Rd, Rm, #imm5; with imm5 = 0 it is MOVS Rd, Rm (42 R291, 43 R311) -/
  | lslsImm (rd rm : LowReg) (imm5 : BitVec 5)
  /-- LSRS Rd, Rm, #imm (42 R293) -/
  | lsrsImm (rd rm : LowReg) (imm5 : BitVec 5)
  /-- ASRS Rd, Rm, #imm (42 R289) -/
  | asrsImm (rd rm : LowReg) (imm5 : BitVec 5)
  /-- ADDS Rd, Rn, Rm (42 R263) -/
  | addsReg (rd rn rm : LowReg)
  /-- SUBS Rd, Rn, Rm (42 R274) -/
  | subsReg (rd rn rm : LowReg)
  /-- ADDS Rd, Rn, #imm3 (42 R261) -/
  | addsImm3 (rd rn : LowReg) (imm3 : BitVec 3)
  /-- SUBS Rd, Rn, #imm3 (42 R272) -/
  | subsImm3 (rd rn : LowReg) (imm3 : BitVec 3)
  /-- MOVS Rd, #imm8 (43 R312) -/
  | movsImm (rd : LowReg) (imm8 : BitVec 8)
  /-- CMP Rn, #imm8 (42 R304) -/
  | cmpImm (rn : LowReg) (imm8 : BitVec 8)
  /-- ADDS Rdn, #imm8 (42 R262) -/
  | addsImm8 (rdn : LowReg) (imm8 : BitVec 8)
  /-- SUBS Rdn, #imm8 (42 R273) -/
  | subsImm8 (rdn : LowReg) (imm8 : BitVec 8)
  /-- ANDS Rdn, Rm (42 R280) -/
  | ands (rdn rm : LowReg)
  /-- EORS Rdn, Rm (42 R282) -/
  | eors (rdn rm : LowReg)
  /-- LSLS Rdn, Rs (42 R292) -/
  | lslsReg (rdn rs : LowReg)
  /-- LSRS Rdn, Rs (42 R294) -/
  | lsrsReg (rdn rs : LowReg)
  /-- ASRS Rdn, Rs (42 R290) -/
  | asrsReg (rdn rs : LowReg)
  /-- ADCS Rdn, Rm (42 R260) -/
  | adcs (rdn rm : LowReg)
  /-- SBCS Rdn, Rm (42 R271) -/
  | sbcs (rdn rm : LowReg)
  /-- RORS Rdn, Rs (42 R295) -/
  | rorsReg (rdn rs : LowReg)
  /-- TST Rn, Rm (43 R340) -/
  | tst (rn rm : LowReg)
  /-- RSBS Rd, Rn, #0 (42 R270) -/
  | rsbs (rd rn : LowReg)
  /-- CMP Rn, Rm, both low (42 R306) -/
  | cmpReg (rn rm : LowReg)
  /-- CMN Rn, Rm (42 R305) -/
  | cmn (rn rm : LowReg)
  /-- ORRS Rdn, Rm (42 R281) -/
  | orrs (rdn rm : LowReg)
  /-- MULS Rdm, Rn, Rdm (43 R320) -/
  | muls (rdm rn : LowReg)
  /-- BICS Rdn, Rm (42 R283) -/
  | bics (rdn rm : LowReg)
  /-- MVNS Rd, Rm (43 R313) -/
  | mvns (rd rm : LowReg)
  /-- ADD Rdn, Rm on any registers (42 R264) -/
  | addHigh (rdn rm : Reg)
  /-- CMP Rn, Rm, at least one high (42 R307) -/
  | cmpHigh (rn rm : Reg)
  /-- MOV Rd, Rm on any registers (43 R310) -/
  | movHigh (rd rm : Reg)
  /-- BX Rm; sb is bits [2:0], should be 000 (44 R354) -/
  | bx (rm : Reg) (sb : BitVec 3)
  /-- BLX Rm; sb is bits [2:0], should be 000 (44 R355) -/
  | blx (rm : Reg) (sb : BitVec 3)
  /-- LDR Rt, label (41 R236) -/
  | ldrLit (rt : LowReg) (imm8 : BitVec 8)
  /-- STR Rt, [Rn, Rm] (41 R228) -/
  | strReg (rt rn rm : LowReg)
  /-- STRH Rt, [Rn, Rm] (41 R229) -/
  | strhReg (rt rn rm : LowReg)
  /-- STRB Rt, [Rn, Rm] (41 R230) -/
  | strbReg (rt rn rm : LowReg)
  /-- LDRSB Rt, [Rn, Rm] (41 R231) -/
  | ldrsbReg (rt rn rm : LowReg)
  /-- LDR Rt, [Rn, Rm] (41 R232) -/
  | ldrReg (rt rn rm : LowReg)
  /-- LDRH Rt, [Rn, Rm] (41 R233) -/
  | ldrhReg (rt rn rm : LowReg)
  /-- LDRB Rt, [Rn, Rm] (41 R234) -/
  | ldrbReg (rt rn rm : LowReg)
  /-- LDRSH Rt, [Rn, Rm] (41 R235) -/
  | ldrshReg (rt rn rm : LowReg)
  /-- STR Rt, [Rn, #imm5*4] (41 R222) -/
  | strImm (rt rn : LowReg) (imm5 : BitVec 5)
  /-- LDR Rt, [Rn, #imm5*4] (41 R221) -/
  | ldrImm (rt rn : LowReg) (imm5 : BitVec 5)
  /-- STRB Rt, [Rn, #imm5] (41 R224) -/
  | strbImm (rt rn : LowReg) (imm5 : BitVec 5)
  /-- LDRB Rt, [Rn, #imm5] (41 R223) -/
  | ldrbImm (rt rn : LowReg) (imm5 : BitVec 5)
  /-- STRH Rt, [Rn, #imm5*2] (41 R226) -/
  | strhImm (rt rn : LowReg) (imm5 : BitVec 5)
  /-- LDRH Rt, [Rn, #imm5*2] (41 R225) -/
  | ldrhImm (rt rn : LowReg) (imm5 : BitVec 5)
  /-- STR Rt, [SP, #imm8*4] (41 R237) -/
  | strSp (rt : LowReg) (imm8 : BitVec 8)
  /-- LDR Rt, [SP, #imm8*4] (41 R227) -/
  | ldrSp (rt : LowReg) (imm8 : BitVec 8)
  /-- ADR Rd, label (41 R220) -/
  | adr (rd : LowReg) (imm8 : BitVec 8)
  /-- ADD Rd, SP, #imm8*4 (42 R265) -/
  | addSpRd (rd : LowReg) (imm8 : BitVec 8)
  /-- ADD SP, SP, #imm7*4 (42 R266) -/
  | addSpImm (imm7 : BitVec 7)
  /-- SUB SP, SP, #imm7*4 (42 R275) -/
  | subSpImm (imm7 : BitVec 7)
  /-- SXTH Rd, Rm (43 R331) -/
  | sxth (rd rm : LowReg)
  /-- SXTB Rd, Rm (43 R330) -/
  | sxtb (rd rm : LowReg)
  /-- UXTH Rd, Rm (43 R333) -/
  | uxth (rd rm : LowReg)
  /-- UXTB Rd, Rm (43 R332) -/
  | uxtb (rd rm : LowReg)
  /-- PUSH reglist; m is bit 8, LR in the list (41 R250) -/
  | push (m : Bool) (list : RegList)
  /-- CPSIE i; sb is bits [3:0], should be 0010 (45 R375) -/
  | cpsie (sb : BitVec 4)
  /-- CPSID i; sb is bits [3:0], should be 0010 (45 R371) -/
  | cpsid (sb : BitVec 4)
  /-- REV Rd, Rm (43 R325) -/
  | rev (rd rm : LowReg)
  /-- REV16 Rd, Rm (43 R326) -/
  | rev16 (rd rm : LowReg)
  /-- REVSH Rd, Rm (43 R327) -/
  | revsh (rd rm : LowReg)
  /-- POP reglist; p is bit 8, PC in the list (41 R251) -/
  | pop (p : Bool) (list : RegList)
  /-- BKPT #imm8 (45 R370) -/
  | bkpt (imm8 : BitVec 8)
  /-- NOP (45 R381) -/
  | nop
  /-- YIELD (45 R386) -/
  | yieldHint
  /-- WFE (45 R384) -/
  | wfe
  /-- WFI (45 R385) -/
  | wfi
  /-- SEV (45 R382) -/
  | sev
  /-- An unallocated hint; opA is 5 to 15 (30 R162) -/
  | reservedHint (opA : BitVec 4)
  /-- STM Rn!, reglist (41 R241) -/
  | stm (rn : LowReg) (list : RegList)
  /-- LDM Rn{!}, reglist (41 R240) -/
  | ldm (rn : LowReg) (list : RegList)
  /-- B<cond> label (44 R351) -/
  | bCond (cond : Cond) (imm8 : BitVec 8)
  /-- UDF #imm8, permanently undefined (30 R160) -/
  | udf (imm8 : BitVec 8)
  /-- SVC #imm8 (45 R383) -/
  | svc (imm8 : BitVec 8)
  /-- B label (44 R350) -/
  | b (imm11 : BitVec 11)
  /-- BL label; off is S:I1:I2:imm10:imm11, the offset in halfwords (44 R352, 30 R146) -/
  | bl (off : BitVec 24)
  /-- MSR spec_reg, Rn; sb is bit 4 of the first halfword, then bits 13 and 11 to 8 of the second,
  should be 0 0 1000 (45 R380) -/
  | msr (rn : Reg) (sysm : BitVec 8) (sb : BitVec 6)
  /-- MRS Rd, spec_reg; sb is bit 4 and bits 3 to 0 of the first halfword, then bit 13 of the second,
  should be 0 1111 0 (45 R379) -/
  | mrs (rd : Reg) (sysm : BitVec 8) (sb : BitVec 6)
  /-- DSB; sb is bits 3 to 0 of the first halfword, then bits 13 and 11 to 8 of the second,
  should be 1111 0 1111 (45 R373) -/
  | dsb (option : BitVec 4) (sb : BitVec 9)
  /-- DMB; sb as for DSB (45 R372) -/
  | dmb (option : BitVec 4) (sb : BitVec 9)
  /-- ISB; sb as for DSB (45 R374) -/
  | isb (option : BitVec 4) (sb : BitVec 9)
  /-- UDF.W #imm16, permanently undefined (30 R160) -/
  | udfW (imm16 : BitVec 16)
  deriving DecidableEq, Repr

end Sys2Proof
end

