-- ==== Sys2Proof/Machine/Flags.lean ====
section
/-! DEFINITION. The flag computations: addition with carry on exact integers, the shifts and the rotate, and the
conditions (40_instruction_conventions.md R185 to R191). -/

namespace Sys2Proof.Machine

/-! ### Addition and subtraction -/

/-- The result, carry and overflow of an additive operation. -/
structure Sum where
  value : Word
  carry : Bool
  overflow : Bool
  deriving DecidableEq, Repr

/-- AddWithCarry (40_instruction_conventions.md R190): the unsigned and the signed sums as exact integers; carry when
the unsigned one leaves the word, overflow when the result's sign is not the signed one's. -/
def addWithCarry (x y : Word) (cin : Bool) : Sum :=
  let usum := x.toNat + y.toNat + cin.toNat
  let ssum := x.toInt + y.toInt + (cin.toNat : Int)
  let value : Word := BitVec.ofNat 32 usum
  { value := value, carry := decide (2 ^ 32 ≤ usum), overflow := decide (value.toInt ≠ ssum) }

/-- x - y: x plus the complement of y plus 1 (40_instruction_conventions.md R190). -/
def subtract (x y : Word) : Sum := addWithCarry x (~~~y) true

/-! ### Shifts and the rotate -/

/-- A shifted value and the carry out. -/
structure Shifted where
  value : Word
  carry : Bool
  deriving DecidableEq, Repr

/-- LSL_C (40_instruction_conventions.md R187). -/
def lslC (v : Word) (n : Nat) (cin : Bool) : Shifted :=
  if n = 0 then ⟨v, cin⟩
  else if n ≤ 31 then ⟨v <<< n, v.getLsbD (32 - n)⟩
  else if n = 32 then ⟨0, v.getLsbD 0⟩
  else ⟨0, false⟩

/-- LSR_C (40_instruction_conventions.md R186). -/
def lsrC (v : Word) (n : Nat) (cin : Bool) : Shifted :=
  if n = 0 then ⟨v, cin⟩
  else if n ≤ 31 then ⟨v >>> n, v.getLsbD (n - 1)⟩
  else if n = 32 then ⟨0, v.getLsbD 31⟩
  else ⟨0, false⟩

/-- ASR_C (40_instruction_conventions.md R185). -/
def asrC (v : Word) (n : Nat) (cin : Bool) : Shifted :=
  if n = 0 then ⟨v, cin⟩
  else if n ≤ 31 then ⟨v.sshiftRight n, v.getLsbD (n - 1)⟩
  else ⟨if v.getLsbD 31 then 0xFFFFFFFF#32 else 0#32, v.getLsbD 31⟩

/-- ROR_C (40_instruction_conventions.md R188). -/
def rorC (v : Word) (n : Nat) (cin : Bool) : Shifted :=
  if n = 0 then ⟨v, cin⟩
  else if n % 32 = 0 then ⟨v, v.getLsbD 31⟩
  else ⟨(v >>> (n % 32)) ||| (v <<< (32 - n % 32)), v.getLsbD (n % 32 - 1)⟩

/-! ### Flag updates -/

/-- SetNZ (40_instruction_conventions.md R190); C and V keep their values. -/
def Flags.setNZ (f : Flags) (value : Word) : Flags := { f with n := value.getLsbD 31, z := value == 0 }

/-- SetNZ and APSR.C; V keeps its value (40_instruction_conventions.md R184). -/
def Flags.setNZC (f : Flags) (r : Shifted) : Flags :=
  { f with n := r.value.getLsbD 31, z := r.value == 0, c := r.carry }

/-- SetNZCV (40_instruction_conventions.md R190). -/
def Flags.ofSum (a : Sum) : Flags :=
  { n := a.value.getLsbD 31, z := a.value == 0, c := a.carry, v := a.overflow }

/-- The flags as bits 31 to 28 of a word hold them (10_state.md R26). -/
def Flags.ofWord (w : Word) : Flags :=
  { n := w.getLsbD 31, z := w.getLsbD 30, c := w.getLsbD 29, v := w.getLsbD 28 }

/-- The flags as a 4-bit field N:Z:C:V (10_state.md R26). -/
def Flags.bits (f : Flags) : BitVec 4 :=
  BitVec.ofBool f.n ++ BitVec.ofBool f.z ++ BitVec.ofBool f.c ++ BitVec.ofBool f.v

/-! ### Conditions -/

/-- ConditionPassed (40_instruction_conventions.md R191). -/
def Flags.passes (f : Flags) : Cond → Bool
  | .eq => f.z
  | .ne => !f.z
  | .cs => f.c
  | .cc => !f.c
  | .mi => f.n
  | .pl => !f.n
  | .vs => f.v
  | .vc => !f.v
  | .hi => f.c && !f.z
  | .ls => !f.c || f.z
  | .ge => f.n == f.v
  | .lt => f.n != f.v
  | .gt => !f.z && f.n == f.v
  | .le => f.z || f.n != f.v

end Sys2Proof.Machine
end

