-- ==== Sys2Proof/WellFormed.lean ====
section
/-! DEFINITION. Which instruction terms are instructions of the machine: `encodable` says that the term has an
encoding of its own, `wellFormed` that it is besides not one of the unpredictable forms of 30_encoding.md R161. -/

namespace Sys2Proof

/-- The value the should-be bits of BX and BLX must have (30_encoding.md R143). -/
def sbBranch : BitVec 3 := 0b000#3

/-- The value the should-be bits of CPSIE and CPSID must have (30_encoding.md R143). -/
def sbCps : BitVec 4 := 0b0010#4

/-- The value the should-be bits of MSR must have (30_encoding.md R144). -/
def sbMsr : BitVec 6 := 0b001000#6

/-- The value the should-be bits of MRS must have (30_encoding.md R144). -/
def sbMrs : BitVec 6 := 0b011110#6

/-- The value the should-be bits of DSB, DMB and ISB must have (30_encoding.md R144). -/
def sbBarrier : BitVec 9 := 0b111101111#9

/-- The SYSm values that name a special register (45_miscellaneous.md R378). -/
def sysmNames : List (BitVec 8) := [0, 1, 2, 3, 5, 6, 7, 8, 9, 16, 20]

/-- Rn is in the list of an STM and is not the lowest register of it (41_memory_access.md R241). -/
def baseNotLowest (rn : LowReg) (list : RegList) : Bool :=
  list.getLsbD rn.toNat && decide (list.toNat % 2 ^ rn.toNat ≠ 0)

/-- The term has an encoding that no other term has: a reserved hint is one of the eleven that are not NOP, YIELD,
WFE, WFI or SEV (30_encoding.md R162). -/
def Instr.encodable : Instr → Bool
  | .reservedHint opA => decide (5 ≤ opA.toNat)
  | _ => true

/-- The term is encodable and its form is not listed as unpredictable (30_encoding.md R161). -/
def Instr.wellFormed : Instr → Bool
  | .addHigh rdn rm => !(rdn == 15 && rm == 15)
  | .cmpHigh rn rm => !(decide (rn.toNat < 8) && decide (rm.toNat < 8)) && rn != 15 && rm != 15
  | .bx rm sb => sb == sbBranch && rm != 13 && rm != 15
  | .blx rm sb => sb == sbBranch && rm != 13 && rm != 15
  | .push m list => m || list != 0
  | .pop p list => p || list != 0
  | .cpsie sb => sb == sbCps
  | .cpsid sb => sb == sbCps
  | .reservedHint opA => decide (5 ≤ opA.toNat)
  | .stm rn list => list != 0 && !baseNotLowest rn list
  | .ldm _ list => list != 0
  | .msr rn sysm sb => sb == sbMsr && sysmNames.contains sysm && rn != 13 && rn != 15
  | .mrs rd sysm sb => sb == sbMrs && sysmNames.contains sysm && rd != 13 && rd != 15
  | .dsb _ sb => sb == sbBarrier
  | .dmb _ sb => sb == sbBarrier
  | .isb _ sb => sb == sbBarrier
  | _ => true

end Sys2Proof
end

