-- ==== Sys2Proof/Machine/Operands.lean ====
section
/-! DEFINITION. Operands: register reads and writes, the current stack pointer, the PC as an operand, immediates
(10_state.md R20 to R25, 30_encoding.md R146, 40_instruction_conventions.md R195). -/

namespace Sys2Proof.Machine

/-! ### Registers -/

/-- Thread mode is IPSR = 0 (10_state.md R28, R33). -/
def State.threadMode (s : State) : Bool := s.ipsr == 0

/-- The process stack pointer is the current one: Thread mode with SPSEL set (10_state.md R22). -/
def State.usesPsp (s : State) : Bool := s.threadMode && s.spsel

/-- The current stack pointer, x[13] (10_state.md R22). -/
def State.sp (s : State) : Word := if s.usesPsp then s.psp else s.msp

/-- A stack pointer value: bits [1:0] read as 0 and ignore writes (10_state.md R23, D2). -/
def wordAligned (v : Word) : Word := v &&& 0xFFFFFFFC#32

/-- A PC value: bit 0 is discarded (10_state.md R25). -/
def halfAligned (v : Word) : Word := v &&& 0xFFFFFFFE#32

/-- A low register, R0 to R7. -/
def State.lo (s : State) (n : LowReg) : Word := s.r.toList.getD n.toNat 0

/-- Write a low register. -/
def State.setLo (s : State) (n : LowReg) (v : Word) : State := { s with r := s.r.setIfInBounds n.toNat v }

/-- The PC as an operand: the address of the executing instruction plus 4 (10_state.md R25). -/
def State.pcOperand (s : State) : Word := s.pc + 4

/-- x[n], a register read as an operand (00_scope.md R10). -/
def State.x (s : State) (n : Reg) : Word :=
  if n = 13 then s.sp
  else if n = 14 then s.lr
  else if n = 15 then s.pcOperand
  else s.r.toList.getD n.toNat 0

/-- Write the current stack pointer (10_state.md R22, R23). -/
def State.setSp (s : State) (v : Word) : State :=
  { s with
    msp := if s.usesPsp then s.msp else wordAligned v
    psp := if s.usesPsp then wordAligned v else s.psp }

/-- x[n] <- v for n other than 15, which is never written this way (00_scope.md R10). -/
def State.setX (s : State) (n : Reg) (v : Word) : State :=
  { s with
    r := s.r.setIfInBounds n.toNat v
    msp := if n = 13 ∧ s.usesPsp = false then wordAligned v else s.msp
    psp := if n = 13 ∧ s.usesPsp = true then wordAligned v else s.psp
    lr := if n = 14 then v else s.lr }

/-- Write LR. -/
def State.setLr (s : State) (v : Word) : State := { s with lr := v }

/-- Write the low registers of a list, in rising order, from a list of values (41_memory_access.md R240). -/
def State.setListed (s : State) : List LowReg → List Word → State
  | n :: ns, v :: vs => (s.setLo n v).setListed ns vs
  | _, _ => s

/-- The next instruction is the one so many bytes on (40_instruction_conventions.md R181 step 5). -/
def State.advance (s : State) (len : Nat) : State := { s with pc := s.pc + BitVec.ofNat 32 len }

/-! ### Register lists -/

/-- The registers of a list, rising (30_encoding.md R142). -/
def listed (list : RegList) : List LowReg :=
  [0, 1, 2, 3, 4, 5, 6, 7].filter fun n => list.getLsbD n.toNat

/-- The values of the registers of a list, in rising order. -/
def State.listedValues (s : State) (list : RegList) : List Word := (listed list).map s.lo

/-- Four times the number of transferred words: what a base register moves by (41_memory_access.md R240). -/
def byteCount (n : Nat) : Word := BitVec.ofNat 32 (4 * n)

/-! ### Immediates -/

/-- zext_32 of an immediate times a scale (30_encoding.md R146). -/
def scaled {w : Nat} (imm : BitVec w) (scale : Nat) : Word := BitVec.ofNat 32 (imm.toNat * scale)

/-- The shift length of LSRS and ASRS by immediate: 0 stands for 32 (30_encoding.md R146). -/
def shiftLength (imm5 : BitVec 5) : Nat := if imm5 = 0 then 32 else imm5.toNat

/-- The shift length of a register form: the low byte of Rs (40_instruction_conventions.md R184). -/
def shiftByte (v : Word) : Nat := v.toNat % 256

/-- A branch offset in halfwords as a signed byte offset: sext_32 of the field with a 0 appended
(30_encoding.md R146). -/
def branchOffset {w : Nat} (off : BitVec w) : Word := BitVec.ofInt 32 (off.toInt * 2)

/-- The base of ADR and LDR literal: the PC operand with bits [1:0] cleared
(40_instruction_conventions.md R195). -/
def State.pcBase (s : State) : Word := wordAligned s.pcOperand

/-! ### Special registers -/

/-- The special registers MRS and MSR name (45_miscellaneous.md R378). -/
inductive SpecReg where
  | apsr | iapsr | eapsr | psr | ipsr | epsr | iepsr | msp | psp | primask | control
  deriving DecidableEq, Repr

/-- The special register a SYSm field names (45_miscellaneous.md R378). -/
def specRegOf (sysm : BitVec 8) : Option SpecReg :=
  match sysm.toNat with
  | 0 => some .apsr | 1 => some .iapsr | 2 => some .eapsr | 3 => some .psr
  | 5 => some .ipsr | 6 => some .epsr | 7 => some .iepsr
  | 8 => some .msp | 9 => some .psp
  | 16 => some .primask | 20 => some .control
  | _ => none

end Sys2Proof.Machine
end

