-- ==== Sys2Proof/Machine/Ops.lean ====
section
/-! DEFINITION. The named operations the meanings and the step share: taking an exception and returning from one,
faults and lockup (60_exceptions.md sections 4 to 6), writing the PC, loads and stores, multiple transfers. -/

namespace Sys2Proof.Machine

/-! ### The stack frame -/

/-- The stacked PSR: the flags, T, the alignment flag in bit 9 and the exception number (60_exceptions.md R412,
R413). -/
def State.stackedPsr (s : State) (align : Bool) : Word :=
  s.flags.bits ++ 0#3 ++ BitVec.ofBool s.thumb ++ 0#14 ++ BitVec.ofBool align ++ 0#3 ++ s.ipsr

/-- The frame pointer: 32 bytes below the current stack pointer, rounded down to a multiple of 8
(60_exceptions.md R412). -/
def State.framePointer (s : State) : Word := (s.sp - 32) &&& 0xFFFFFFFB#32

/-- The eight words of the frame, lowest address first (60_exceptions.md R413; notes/assumptions/15.md). -/
def State.frameWords (s : State) (ra : Word) : List Word :=
  [s.x 0, s.x 1, s.x 2, s.x 3, s.x 12, s.lr, ra, s.stackedPsr (s.sp.getLsbD 2)]

/-- The EXC_RETURN value that describes an exception entry from this state (60_exceptions.md R412, R414). -/
def State.excReturn (s : State) : Word :=
  if s.ipsr ≠ 0 then 0xFFFFFFF1#32 else if s.spsel then 0xFFFFFFFD#32 else 0xFFFFFFF9#32

/-! ### Entering a handler -/

/-- R0 to R3 and R12 at free values from the k-th on. -/
def clobberRegs (r : Vector Word 13) (k : Nat) : Vector Word 13 :=
  ((((r.setIfInBounds 0 (Config.freeWord k)).setIfInBounds 1 (Config.freeWord (k + 1))).setIfInBounds
    2 (Config.freeWord (k + 2))).setIfInBounds 3 (Config.freeWord (k + 3))).setIfInBounds 12 (Config.freeWord (k + 4))

/-- What a handler must not rely on: R0 to R3, R12 and the flags hold free values (60_exceptions.md R412 step 5,
D5). -/
def State.clobber (s : State) : State :=
  { s with
    r := clobberRegs s.r s.free
    flags := Flags.ofWord (Config.freeWord (s.free + 5))
    free := s.free + 6 }

/-- Continue at a vector: its bit 0 goes to T, the rest to the PC (60_exceptions.md R405). -/
def State.toVector (s : State) (v : Word) : State :=
  { s with thumb := v.getLsbD 0, pc := halfAligned v, run := .running }

/-- LR, mode, stack selection and exception state at entry (60_exceptions.md R412 steps 2 and 3). -/
def State.enterMode (s : State) (n : Nat) (link : Word) : State :=
  { s with lr := link, ipsr := BitVec.ofNat 6 n, spsel := false, nvic := s.nvic.activate n }

/-- The processor locks up: nothing else changes (60_exceptions.md R426). -/
def State.lockUp (s : State) : State := { s with run := .lockup }

/-- HardFault's mode in place of exception n, whose vector could not be fetched (60_exceptions.md R425). -/
def State.enterDerived (s : State) (n : Nat) : State :=
  { s with ipsr := BitVec.ofNat 6 excHardFault, nvic := s.nvic.derivedHardFault n }

/-- The address of an exception's vector (60_exceptions.md R401, R404). -/
def vectorAddress (n : Nat) : Word := BitVec.ofNat 32 (4 * n)

/-- The vector fetch of HardFault in place of exception n; a second failure locks up (60_exceptions.md R425). -/
def startDerived (n : Nat) (s : State) : Result :=
  match memRead 4 (vectorAddress excHardFault) (s.enterDerived n) with
  | .ok v s2 => .next (s2.toVector v).clobber
  | .abort _ s2 => .next s2.lockUp
  | .refused r => .refused r

/-- Start the handler of exception n on a frame that stands already, with the EXC_RETURN value that describes it:
steps 2 to 6 of exception entry, and all of tail-chaining (60_exceptions.md R412, R418). A bus error on the vector
fetch is R425. -/
def startHandler (n : Nat) (link : Word) (s : State) : Result :=
  match memRead 4 (vectorAddress n) (s.enterMode n link) with
  | .ok v s1 => .next (s1.toVector v).clobber
  | .abort _ s1 => if n = excHardFault ∨ n = excNmi then .next s1.lockUp else startDerived n s1
  | .refused r => .refused r

/-- Exception entry with nothing cutting it short: stack the eight words on the current stack, then start the
handler (60_exceptions.md R412). A bus error on a store has no effect in the spec (R425, U26). -/
def enterException (n : Nat) (ra : Word) (s : State) : Result :=
  match storeWords (s.frameWords ra) s.framePointer s with
  | .ok _ s1 => startHandler n s.excReturn (s1.setSp s.framePointer)
  | .abort _ _ => .fault .stackingBusError
  | .refused r => .refused r

/-- Reset is asserted: the processor stops where it is (70_reset_and_hazards.md R480). -/
def State.holdReset (s : State) : State := { s with run := .inReset, resetReq := false }

/-- Exception entry that reset cuts short after k of its eight stores (70_reset_and_hazards.md R480). -/
def cutEntry (k : Nat) (ra : Word) (s : State) : Result :=
  match storeWords ((s.frameWords ra).take k) s.framePointer s with
  | .ok _ s1 => .next s1.holdReset
  | .abort _ _ => .fault .stackingBusError
  | .refused r => .refused r

/-- TakeException(n, RA) (60_exceptions.md R412). -/
def takeException (n : Nat) (ra : Word) (s : State) : Result :=
  match s.env.resetInEntry with
  | some k => if k < 8 then cutEntry k ra s else enterException n ra s
  | none => enterException n ra s

/-! ### Faults -/

/-- Make an exception pending. -/
def State.pend (s : State) (n : Nat) : State := { s with nvic := s.nvic.pend n }

/-- raise HardFault(cause) at the instruction at the PC: lockup at execution priority -1 or higher, else HardFault is
taken at once with the instruction's own address as return address (60_exceptions.md R421, R423). The cause is
recorded nowhere. -/
def raiseHardFault (_cause : FaultCause) (s : State) : Result :=
  if s.execPriority ≤ -1 then .next s.lockUp else takeException excHardFault s.pc (s.pend excHardFault)

/-- The result of an instruction that goes on with an access's value, or takes the access's fault. -/
def Access.finish {α : Type} (m : Access α) (k : α → State → Result) : Result :=
  match m with
  | .ok a s => k a s
  | .abort c s => raiseHardFault c s
  | .refused r => .refused r

/-! ### Exception return -/

/-- A number an exception can have that is active (10_state.md R28, R36). -/
def Nvic.isActive (v : Nvic) (n : Nat) : Bool := exceptionNumbers.contains n && v.active.getLsbD n

/-- R0 to R3 and R12 from the first five words of a frame. -/
def restoreRegs (r : Vector Word 13) (ws : List Word) : Vector Word 13 :=
  ((((r.setIfInBounds 0 (ws.getD 0 0)).setIfInBounds 1 (ws.getD 1 0)).setIfInBounds 2 (ws.getD 2 0)).setIfInBounds
    3 (ws.getD 3 0)).setIfInBounds 12 (ws.getD 4 0)

/-- The registers a frame restores, and the state around them (60_exceptions.md R417). ws is R0, R1, R2, R3, R12, LR
and the return address. -/
def State.restore (s : State) (toThread usePsp : Bool) (ws : List Word) (psr : Word) : State :=
  { s with
    r := restoreRegs s.r ws
    lr := ws.getD 5 0
    pc := ws.getD 6 0
    msp := if usePsp then s.msp else wordAligned ((s.msp + 32) ||| bitWord (psr.getLsbD 9) 2)
    psp := if usePsp then wordAligned ((s.psp + 32) ||| bitWord (psr.getLsbD 9) 2) else s.psp
    flags := Flags.ofWord psr
    thumb := psr.getLsbD 24
    ipsr := psr.setWidth 6
    spsel := toThread && usePsp
    run := if toThread && s.scr.sleepOnExit then .sleeping .wfi else .running }

/-- The checks a frame must pass, then the restore (60_exceptions.md R417; U5, U15, U27). -/
def unstackFrame (toThread usePsp : Bool) (ws : List Word) (psr : Word) (s : State) : Result :=
  if (ws.getD 6 0).getLsbD 0 then .refused .oddReturnAddress
  else if toThread != (psr.setWidth 6 == 0#6) then .refused .badStackedIpsr
  else if !toThread && !s.nvic.isActive (psr.setWidth 6).toNat then .refused .badStackedIpsr
  else .next (s.restore toThread usePsp ws psr)

/-- Read the frame and return (60_exceptions.md R417). A bus error on the PSR word through MSP is lockup; any other
has no effect in the spec (R425, R426, U26). -/
def unstack (addr : Word) (s : State) : Result :=
  let toThread := addr.getLsbD 3
  let usePsp := addr.getLsbD 2
  let fp := if usePsp then s.psp else s.msp
  match loadWords 7 fp s with
  | .ok ws s1 =>
    match memRead 4 (fp + 28) s1 with
    | .ok psr s2 => unstackFrame toThread usePsp ws psr s2
    | .abort _ s2 => if usePsp then .fault .unstackingBusError else .next s2.lockUp
    | .refused r => .refused r
  | .abort _ _ => .fault .unstackingBusError
  | .refused r => .refused r

/-- The returning exception is no longer active (60_exceptions.md R417). -/
def State.deactivateCurrent (s : State) : State := { s with nvic := s.nvic.deactivate s.ipsr.toNat }

/-- Return(addr): the handler ends; an exception that may be taken is tail-chained on the same frame, else the frame
is unstacked (60_exceptions.md R417, R418). -/
def returnSequence (addr : Word) (s : State) : Result :=
  match s.deactivateCurrent.preempting with
  | some m => startHandler m addr s.deactivateCurrent
  | none => unstack addr s.deactivateCurrent

/-- Another exception than the current one is active (60_exceptions.md R416). -/
def State.othersActive (s : State) : Bool := clearBit s.nvic.active s.ipsr.toNat != 0

/-- ExceptionReturn(addr) (60_exceptions.md R415, R416). -/
def exceptionReturn (addr : Word) (s : State) : Result :=
  if addr = 0xFFFFFFF1#32 then
    if s.othersActive then returnSequence addr s else .refused .inconsistentExcReturn
  else if addr = 0xFFFFFFF9#32 ∨ addr = 0xFFFFFFFD#32 then
    if s.othersActive then .refused .inconsistentExcReturn else returnSequence addr s
  else .refused .reservedExcReturn

/-! ### Writing the PC (40_instruction_conventions.md R196) -/

/-- BranchWritePC and ALUWritePC: bit 0 is discarded, T is unchanged, never an exception return. -/
def State.branchTo (s : State) (addr : Word) : State := { s with pc := halfAligned addr }

/-- Bit 0 goes to T and is cleared in the address. -/
def State.interwork (s : State) (addr : Word) : State :=
  { s with thumb := addr.getLsbD 0, pc := halfAligned addr }

/-- Bits [31:28] are all ones: the mark of an EXC_RETURN value. -/
def excReturnLike (addr : Word) : Bool := addr.extractLsb' 28 4 == 0xF#4

/-- BXWritePC: in Handler mode a value with bits [31:28] all ones is an exception return. -/
def bxWritePc (addr : Word) (s : State) : Result :=
  if !s.threadMode && excReturnLike addr then exceptionReturn addr s else .next (s.interwork addr)

/-- BLXWritePC: the same value in Handler mode is not defined (U25). -/
def blxWritePc (addr : Word) (s : State) : Result :=
  if !s.threadMode && excReturnLike addr then .refused .blxExcReturn else .next (s.interwork addr)

/-! ### Interruption -/

/-- The state the interruption of this step leaves to a multiple transfer, or to the exception entry of SVC: what was
sampled meanwhile has been taken in (60_exceptions.md R440; notes/assumptions/18.md, 38.md). -/
def State.interrupted (s : State) : State :=
  match s.env.mid with
  | some m => s.takeSample m.sample
  | none => s

/-! ### Loads and stores -/

/-- A load of n bytes into a low register, extended by ext (20_memory.md R106). -/
def loadLow (n : Nat) (ext : Word → Word) (rt : LowReg) (addr : Word) (s : State) : Result :=
  (memRead n addr s).finish fun v s1 => .next ((s1.setLo rt (ext v)).advance 2)

/-- A store of the low n bytes of a low register (20_memory.md R106). -/
def storeLow (n : Nat) (rt : LowReg) (addr : Word) (s : State) : Result :=
  (memWrite n addr (s.lo rt) s).finish fun _ s1 => .next (s1.advance 2)

/-- sext_32 of the low byte. -/
def sextByte (v : Word) : Word := (v.setWidth 8).signExtend 32

/-- sext_32 of the low halfword. -/
def sextHalf (v : Word) : Word := (v.setWidth 16).signExtend 32

/-- zext_32 of the low byte. -/
def zextByte (v : Word) : Word := (v.setWidth 8).setWidth 32

/-- zext_32 of the low halfword. -/
def zextHalf (v : Word) : Word := (v.setWidth 16).setWidth 32

/-! ### Multiple transfers (41_memory_access.md R243) -/

/-- How a multiple transfer of n words runs in this step. -/
inductive Cut where
  /-- to its end -/
  | whole
  /-- abandoned for an exception after so many transfers -/
  | abandoned (k : Nat)
  /-- cut short by reset after so many transfers -/
  | reset (k : Nat)
  deriving DecidableEq, Repr

/-- Where a transfer of n words is cut: by reset, or by an exception that can be taken once the interruption has been
sampled, if fewer than n words have been transferred by then (41_memory_access.md R243, 70_reset_and_hazards.md
R480). -/
def State.cut (s : State) (n : Nat) : Cut :=
  match s.env.resetInTransfer with
  | some k => if k < n then .reset k else .whole
  | none =>
    match s.env.mid with
    | some m => if m.after < n ∧ s.interrupted.preempting.isSome then .abandoned m.after else .whole
    | none => .whole

/-- Run a transfer of n words: whole, or only its first k accesses, after which no register has been written and
the PC is still the instruction's own. -/
def transfer {α : Type} (n : Nat) (accesses : Nat → State → Access α) (done : α → State → Result)
    (s : State) : Result :=
  match s.cut n with
  | .whole => (accesses n s.interrupted).finish done
  | .abandoned k => (accesses k s.interrupted).finish fun _ s1 => .next s1
  | .reset k => (accesses k s).finish fun _ s1 => .next s1.holdReset

/-- LDM and POP: read n words from an address on. -/
def loadTransfer (n : Nat) (addr : Word) (done : List Word → State → Result) (s : State) : Result :=
  transfer n (fun k s1 => loadWords k addr s1) done s

/-- STM and PUSH: write the words of a list from an address on. -/
def storeTransfer (words : List Word) (addr : Word) (done : State → Result) (s : State) : Result :=
  transfer words.length (fun k s1 => storeWords (words.take k) addr s1) (fun _ s1 => done s1) s

end Sys2Proof.Machine
end

