-- ==== Sys2Proof/Machine/Arithmetic.lean ====
section
/-! DEFINITION. The meanings of the additive and comparing instructions and of MULS
(42_arith_logic_shift_compare.md sections 1 and 4; 43_move_mul_rev_extend_test.md section 2). -/

namespace Sys2Proof.Machine

/-- Write a result to a low register and all four flags, and go on 2 bytes further. -/
def State.putSum (s : State) (rd : LowReg) (a : Sum) : State :=
  ({ s with flags := Flags.ofSum a }.setLo rd a.value).advance 2

/-- Write only the four flags, and go on 2 bytes further. -/
def State.compareSum (s : State) (a : Sum) : State := { s with flags := Flags.ofSum a }.advance 2

/-- Write a result to a low register, N and Z, and go on 2 bytes further. -/
def State.putNZ (s : State) (rd : LowReg) (v : Word) : State :=
  ({ s with flags := s.flags.setNZ v }.setLo rd v).advance 2

/-- Write a result to a low register and no flag, and go on 2 bytes further. -/
def State.putLo (s : State) (rd : LowReg) (v : Word) : State := (s.setLo rd v).advance 2

/-- ADDS Rd, Rn, Rm (42 R263). -/
def execAddsReg (rd rn rm : LowReg) (s : State) : Result :=
  .next (s.putSum rd (addWithCarry (s.lo rn) (s.lo rm) false))

/-- SUBS Rd, Rn, Rm (42 R274). -/
def execSubsReg (rd rn rm : LowReg) (s : State) : Result :=
  .next (s.putSum rd (subtract (s.lo rn) (s.lo rm)))

/-- ADDS Rd, Rn, #imm3 (42 R261). -/
def execAddsImm3 (rd rn : LowReg) (imm3 : BitVec 3) (s : State) : Result :=
  .next (s.putSum rd (addWithCarry (s.lo rn) (scaled imm3 1) false))

/-- SUBS Rd, Rn, #imm3 (42 R272). -/
def execSubsImm3 (rd rn : LowReg) (imm3 : BitVec 3) (s : State) : Result :=
  .next (s.putSum rd (subtract (s.lo rn) (scaled imm3 1)))

/-- ADDS Rdn, #imm8 (42 R262). -/
def execAddsImm8 (rdn : LowReg) (imm8 : BitVec 8) (s : State) : Result :=
  .next (s.putSum rdn (addWithCarry (s.lo rdn) (scaled imm8 1) false))

/-- SUBS Rdn, #imm8 (42 R273). -/
def execSubsImm8 (rdn : LowReg) (imm8 : BitVec 8) (s : State) : Result :=
  .next (s.putSum rdn (subtract (s.lo rdn) (scaled imm8 1)))

/-- ADCS Rdn, Rm (42 R260). -/
def execAdcs (rdn rm : LowReg) (s : State) : Result :=
  .next (s.putSum rdn (addWithCarry (s.lo rdn) (s.lo rm) s.flags.c))

/-- SBCS Rdn, Rm: Rdn - Rm - (1 - C) (42 R271, conflict C7). -/
def execSbcs (rdn rm : LowReg) (s : State) : Result :=
  .next (s.putSum rdn (addWithCarry (s.lo rdn) (~~~(s.lo rm)) s.flags.c))

/-- RSBS Rd, Rn, #0: 0 - Rn (42 R270, conflict C8). -/
def execRsbs (rd rn : LowReg) (s : State) : Result := .next (s.putSum rd (subtract 0 (s.lo rn)))

/-- CMP Rn, #imm8 (42 R304). -/
def execCmpImm (rn : LowReg) (imm8 : BitVec 8) (s : State) : Result :=
  .next (s.compareSum (subtract (s.lo rn) (scaled imm8 1)))

/-- CMP Rn, Rm, both low (42 R306). -/
def execCmpReg (rn rm : LowReg) (s : State) : Result := .next (s.compareSum (subtract (s.lo rn) (s.lo rm)))

/-- CMN Rn, Rm (42 R305). -/
def execCmn (rn rm : LowReg) (s : State) : Result :=
  .next (s.compareSum (addWithCarry (s.lo rn) (s.lo rm) false))

/-- CMP Rn, Rm with at least one high register (42 R307). -/
def execCmpHigh (rn rm : Reg) (s : State) : Result :=
  if (rn.toNat < 8 ∧ rm.toNat < 8) ∨ rn = 15 ∨ rm = 15 then .refused .cmpHighOperands
  else .next (s.compareSum (subtract (s.x rn) (s.x rm)))

/-- ADD Rdn, Rm on any registers, flags unchanged (42 R264). -/
def execAddHigh (rdn rm : Reg) (s : State) : Result :=
  if rdn = 15 ∧ rm = 15 then .refused .addPcPc
  else if rdn = 15 then .next (s.branchTo (s.x rdn + s.x rm))
  else .next ((s.setX rdn (s.x rdn + s.x rm)).advance 2)

/-- ADD Rd, SP, #imm8*4 (42 R265). -/
def execAddSpRd (rd : LowReg) (imm8 : BitVec 8) (s : State) : Result :=
  .next (s.putLo rd (s.sp + scaled imm8 4))

/-- ADD SP, SP, #imm7*4 (42 R266). -/
def execAddSpImm (imm7 : BitVec 7) (s : State) : Result :=
  .next ((s.setSp (s.sp + scaled imm7 4)).advance 2)

/-- SUB SP, SP, #imm7*4 (42 R275). -/
def execSubSpImm (imm7 : BitVec 7) (s : State) : Result :=
  .next ((s.setSp (s.sp - scaled imm7 4)).advance 2)

/-- ADR Rd, label (41 R220). -/
def execAdr (rd : LowReg) (imm8 : BitVec 8) (s : State) : Result :=
  .next (s.putLo rd (s.pcBase + scaled imm8 4))

/-- MULS Rdm, Rn, Rdm: the low 32 bits of the product (43 R320). -/
def execMuls (rdm rn : LowReg) (s : State) : Result := .next (s.putNZ rdm (s.lo rn * s.lo rdm))

end Sys2Proof.Machine
end

