-- ==== Sys2Proof/Machine/Branch.lean ====
section
/-! DEFINITION. The meanings of the branches (44_branch.md). None changes a flag, but for an exception return. -/

namespace Sys2Proof.Machine

/-- B label (44 R350). -/
def execB (imm11 : BitVec 11) (s : State) : Result := .next (s.branchTo (s.pcOperand + branchOffset imm11))

/-- B<cond> label (44 R351). -/
def execBCond (cond : Cond) (imm8 : BitVec 8) (s : State) : Result :=
  if s.flags.passes cond then .next (s.branchTo (s.pcOperand + branchOffset imm8)) else .next (s.advance 2)

/-- BL label: LR is the address of the next instruction with bit 0 set (44 R352). -/
def execBl (off : BitVec 24) (s : State) : Result :=
  .next ((s.setLr (s.pcOperand ||| 1)).branchTo (s.pcOperand + branchOffset off))

/-- BX Rm, in Handler mode also the exception return (44 R354). -/
def execBx (rm : Reg) (sb : BitVec 3) (s : State) : Result :=
  if sb ≠ sbBranch then .refused .shouldBeBits
  else if rm = 13 ∨ rm = 15 then .refused .branchSpOrPc
  else bxWritePc (s.x rm) s

/-- BLX Rm: the target is read before LR is written (44 R355). -/
def execBlx (rm : Reg) (sb : BitVec 3) (s : State) : Result :=
  if sb ≠ sbBranch then .refused .shouldBeBits
  else if rm = 13 ∨ rm = 15 then .refused .branchSpOrPc
  else blxWritePc (s.x rm) (s.setLr ((s.pc + 2) ||| 1))

end Sys2Proof.Machine
end

