-- ==== Sys2Proof/Machine/Extend.lean ====
section
/-! DEFINITION. The meanings of the byte reversals and the extensions (43_move_mul_rev_extend_test.md sections 3
and 4). None changes a flag. -/

namespace Sys2Proof.Machine

/-- Byte k of a word, byte 0 the least significant. -/
def byteAt (v : Word) (k : Nat) : Byte := v.extractLsb' (8 * k) 8

/-- REV Rd, Rm (43 R325). -/
def execRev (rd rm : LowReg) (s : State) : Result :=
  let v := s.lo rm
  .next (s.putLo rd (byteAt v 0 ++ byteAt v 1 ++ byteAt v 2 ++ byteAt v 3))

/-- REV16 Rd, Rm (43 R326). -/
def execRev16 (rd rm : LowReg) (s : State) : Result :=
  let v := s.lo rm
  .next (s.putLo rd (byteAt v 2 ++ byteAt v 3 ++ byteAt v 0 ++ byteAt v 1))

/-- REVSH Rd, Rm (43 R327). -/
def execRevsh (rd rm : LowReg) (s : State) : Result :=
  let v := s.lo rm
  .next (s.putLo rd ((byteAt v 0 ++ byteAt v 1).signExtend 32))

/-- SXTB Rd, Rm (43 R330). -/
def execSxtb (rd rm : LowReg) (s : State) : Result := .next (s.putLo rd (sextByte (s.lo rm)))

/-- SXTH Rd, Rm (43 R331). -/
def execSxth (rd rm : LowReg) (s : State) : Result := .next (s.putLo rd (sextHalf (s.lo rm)))

/-- UXTB Rd, Rm (43 R332). -/
def execUxtb (rd rm : LowReg) (s : State) : Result := .next (s.putLo rd (zextByte (s.lo rm)))

/-- UXTH Rd, Rm (43 R333). -/
def execUxth (rd rm : LowReg) (s : State) : Result := .next (s.putLo rd (zextHalf (s.lo rm)))

end Sys2Proof.Machine
end

