-- ==== Sys2Proof/Machine/LoadStore.lean ====
section
/-! DEFINITION. The meanings of the single loads and stores (41_memory_access.md sections 2 to 4). None changes a
flag or a base register. -/

namespace Sys2Proof.Machine

/-- The address of a load or store with a register offset: Rn + Rm (41 R228 to R235). -/
def State.addrReg (s : State) (rn rm : LowReg) : Word := s.lo rn + s.lo rm

/-- The address of a load or store with an immediate offset: Rn + imm5 * scale (41 R221 to R226). -/
def State.addrImm (s : State) (rn : LowReg) (imm5 : BitVec 5) (scale : Nat) : Word := s.lo rn + scaled imm5 scale

/-- The address of a load or store relative to SP: SP + imm8 * 4 (41 R227, R237). -/
def State.addrSp (s : State) (imm8 : BitVec 8) : Word := s.sp + scaled imm8 4

/-- The address of a literal: the PC base + imm8 * 4 (41 R236). -/
def State.addrLit (s : State) (imm8 : BitVec 8) : Word := s.pcBase + scaled imm8 4

/-- LDR Rt, label: a data access, to which execute-never does not apply (41 R236). -/
def execLdrLit (rt : LowReg) (imm8 : BitVec 8) (s : State) : Result := loadLow 4 id rt (s.addrLit imm8) s

/-- STR Rt, [Rn, Rm] (41 R228). -/
def execStrReg (rt rn rm : LowReg) (s : State) : Result := storeLow 4 rt (s.addrReg rn rm) s

/-- STRH Rt, [Rn, Rm] (41 R229). -/
def execStrhReg (rt rn rm : LowReg) (s : State) : Result := storeLow 2 rt (s.addrReg rn rm) s

/-- STRB Rt, [Rn, Rm] (41 R230). -/
def execStrbReg (rt rn rm : LowReg) (s : State) : Result := storeLow 1 rt (s.addrReg rn rm) s

/-- LDRSB Rt, [Rn, Rm] (41 R231). -/
def execLdrsbReg (rt rn rm : LowReg) (s : State) : Result := loadLow 1 sextByte rt (s.addrReg rn rm) s

/-- LDR Rt, [Rn, Rm] (41 R232). -/
def execLdrReg (rt rn rm : LowReg) (s : State) : Result := loadLow 4 id rt (s.addrReg rn rm) s

/-- LDRH Rt, [Rn, Rm] (41 R233). -/
def execLdrhReg (rt rn rm : LowReg) (s : State) : Result := loadLow 2 zextHalf rt (s.addrReg rn rm) s

/-- LDRB Rt, [Rn, Rm] (41 R234). -/
def execLdrbReg (rt rn rm : LowReg) (s : State) : Result := loadLow 1 zextByte rt (s.addrReg rn rm) s

/-- LDRSH Rt, [Rn, Rm] (41 R235). -/
def execLdrshReg (rt rn rm : LowReg) (s : State) : Result := loadLow 2 sextHalf rt (s.addrReg rn rm) s

/-- STR Rt, [Rn, #imm5*4] (41 R222). -/
def execStrImm (rt rn : LowReg) (imm5 : BitVec 5) (s : State) : Result := storeLow 4 rt (s.addrImm rn imm5 4) s

/-- LDR Rt, [Rn, #imm5*4] (41 R221). -/
def execLdrImm (rt rn : LowReg) (imm5 : BitVec 5) (s : State) : Result := loadLow 4 id rt (s.addrImm rn imm5 4) s

/-- STRB Rt, [Rn, #imm5] (41 R224). -/
def execStrbImm (rt rn : LowReg) (imm5 : BitVec 5) (s : State) : Result := storeLow 1 rt (s.addrImm rn imm5 1) s

/-- LDRB Rt, [Rn, #imm5] (41 R223). -/
def execLdrbImm (rt rn : LowReg) (imm5 : BitVec 5) (s : State) : Result :=
  loadLow 1 zextByte rt (s.addrImm rn imm5 1) s

/-- STRH Rt, [Rn, #imm5*2] (41 R226). -/
def execStrhImm (rt rn : LowReg) (imm5 : BitVec 5) (s : State) : Result := storeLow 2 rt (s.addrImm rn imm5 2) s

/-- LDRH Rt, [Rn, #imm5*2] (41 R225). -/
def execLdrhImm (rt rn : LowReg) (imm5 : BitVec 5) (s : State) : Result :=
  loadLow 2 zextHalf rt (s.addrImm rn imm5 2) s

/-- STR Rt, [SP, #imm8*4] (41 R237). -/
def execStrSp (rt : LowReg) (imm8 : BitVec 8) (s : State) : Result := storeLow 4 rt (s.addrSp imm8) s

/-- LDR Rt, [SP, #imm8*4] (41 R227). -/
def execLdrSp (rt : LowReg) (imm8 : BitVec 8) (s : State) : Result := loadLow 4 id rt (s.addrSp imm8) s

end Sys2Proof.Machine
end

