-- ==== Sys2Proof/Machine/Logic.lean ====
section
/-! DEFINITION. The meanings of the logical instructions, the moves and TST (42_arith_logic_shift_compare.md section
2; 43_move_mul_rev_extend_test.md sections 1 and 5). -/

namespace Sys2Proof.Machine

/-- ANDS Rdn, Rm (42 R280). -/
def execAnds (rdn rm : LowReg) (s : State) : Result := .next (s.putNZ rdn (s.lo rdn &&& s.lo rm))

/-- EORS Rdn, Rm (42 R282). -/
def execEors (rdn rm : LowReg) (s : State) : Result := .next (s.putNZ rdn (s.lo rdn ^^^ s.lo rm))

/-- ORRS Rdn, Rm (42 R281). -/
def execOrrs (rdn rm : LowReg) (s : State) : Result := .next (s.putNZ rdn (s.lo rdn ||| s.lo rm))

/-- BICS Rdn, Rm (42 R283). -/
def execBics (rdn rm : LowReg) (s : State) : Result := .next (s.putNZ rdn (s.lo rdn &&& ~~~(s.lo rm)))

/-- MVNS Rd, Rm (43 R313). -/
def execMvns (rd rm : LowReg) (s : State) : Result := .next (s.putNZ rd (~~~(s.lo rm)))

/-- MOVS Rd, #imm8 (43 R312). -/
def execMovsImm (rd : LowReg) (imm8 : BitVec 8) (s : State) : Result := .next (s.putNZ rd (scaled imm8 1))

/-- MOV Rd, Rm on any registers, flags unchanged (43 R310). -/
def execMovHigh (rd rm : Reg) (s : State) : Result :=
  if rd = 15 then .next (s.branchTo (s.x rm)) else .next ((s.setX rd (s.x rm)).advance 2)

/-- TST Rn, Rm: N and Z of the AND, no register written (43 R340). -/
def execTst (rn rm : LowReg) (s : State) : Result :=
  .next ({ s with flags := s.flags.setNZ (s.lo rn &&& s.lo rm) }.advance 2)

end Sys2Proof.Machine
end

