-- ==== Sys2Proof/Machine/Multiple.lean ====
section
/-! DEFINITION. The meanings of LDM, STM, PUSH and POP (41_memory_access.md sections 5 and 6). -/

namespace Sys2Proof.Machine

/-- LDM Rn{!}, reglist: Rn is written back exactly when it is not in the list (41 R240). -/
def execLdm (rn : LowReg) (list : RegList) (s : State) : Result :=
  if list = 0 then .refused .emptyRegisterList
  else
    let regs := listed list
    loadTransfer regs.length (s.lo rn)
      (fun vs s1 =>
        let s2 := s1.setListed regs vs
        let s3 := if list.getLsbD rn.toNat then s2 else s2.setLo rn (s.lo rn + byteCount regs.length)
        .next (s3.advance 2)) s

/-- STM Rn!, reglist: Rn is always written back; a base that is listed and not lowest is refused (41 R241, U1, C28;
notes/assumptions/23.md). -/
def execStm (rn : LowReg) (list : RegList) (s : State) : Result :=
  if list = 0 then .refused .emptyRegisterList
  else if baseNotLowest rn list then .refused .stmBaseNotLowest
  else
    storeTransfer (s.listedValues list) (s.lo rn)
      (fun s1 => .next ((s1.setLo rn (s.lo rn + byteCount (listed list).length)).advance 2)) s

/-- The words PUSH stores, lowest address first: the listed registers, then LR with M (41 R250). -/
def State.pushWords (s : State) (m : Bool) (list : RegList) : List Word :=
  s.listedValues list ++ (if m then [s.lr] else [])

/-- The lowest address PUSH stores to (41 R250). -/
def State.pushBase (s : State) (m : Bool) (list : RegList) : Word := s.sp - byteCount (s.pushWords m list).length

/-- PUSH reglist: SP is updated after the stores (41 R250). -/
def execPush (m : Bool) (list : RegList) (s : State) : Result :=
  if m = false ∧ list = 0 then .refused .emptyRegisterList
  else
    storeTransfer (s.pushWords m list) (s.pushBase m list)
      (fun s1 => .next ((s1.setSp (s.pushBase m list)).advance 2)) s

/-- The number of words POP loads (41 R251). -/
def popCount (p : Bool) (list : RegList) : Nat := (listed list).length + (if p then 1 else 0)

/-- POP reglist: the registers and SP are written, then with P the last word goes to the PC, which in Handler mode
can be an exception return (41 R251). -/
def execPop (p : Bool) (list : RegList) (s : State) : Result :=
  if p = false ∧ list = 0 then .refused .emptyRegisterList
  else
    loadTransfer (popCount p list) s.sp
      (fun vs s1 =>
        let s2 := (s1.setListed (listed list) vs).setSp (s.sp + byteCount (popCount p list))
        if p then bxWritePc (vs.getD (listed list).length 0) s2 else .next (s2.advance 2)) s

end Sys2Proof.Machine
end

