-- ==== Sys2Proof/Machine/Shift.lean ====
section
/-! DEFINITION. The meanings of the shifts and the rotate (42_arith_logic_shift_compare.md section 3). -/

namespace Sys2Proof.Machine

/-- Write a shifted value to a low register, N, Z and C, and go on 2 bytes further. -/
def State.putShifted (s : State) (rd : LowReg) (r : Shifted) : State :=
  ({ s with flags := s.flags.setNZC r }.setLo rd r.value).advance 2

/-- LSLS Rd, Rm, #imm5; imm5 = 0 is MOVS Rd, Rm (42 R291, 43 R311). -/
def execLslsImm (rd rm : LowReg) (imm5 : BitVec 5) (s : State) : Result :=
  .next (s.putShifted rd (lslC (s.lo rm) imm5.toNat s.flags.c))

/-- LSRS Rd, Rm, #imm (42 R293). -/
def execLsrsImm (rd rm : LowReg) (imm5 : BitVec 5) (s : State) : Result :=
  .next (s.putShifted rd (lsrC (s.lo rm) (shiftLength imm5) s.flags.c))

/-- ASRS Rd, Rm, #imm (42 R289). -/
def execAsrsImm (rd rm : LowReg) (imm5 : BitVec 5) (s : State) : Result :=
  .next (s.putShifted rd (asrC (s.lo rm) (shiftLength imm5) s.flags.c))

/-- LSLS Rdn, Rs (42 R292). -/
def execLslsReg (rdn rs : LowReg) (s : State) : Result :=
  .next (s.putShifted rdn (lslC (s.lo rdn) (shiftByte (s.lo rs)) s.flags.c))

/-- LSRS Rdn, Rs (42 R294). -/
def execLsrsReg (rdn rs : LowReg) (s : State) : Result :=
  .next (s.putShifted rdn (lsrC (s.lo rdn) (shiftByte (s.lo rs)) s.flags.c))

/-- ASRS Rdn, Rs (42 R290). -/
def execAsrsReg (rdn rs : LowReg) (s : State) : Result :=
  .next (s.putShifted rdn (asrC (s.lo rdn) (shiftByte (s.lo rs)) s.flags.c))

/-- RORS Rdn, Rs (42 R295). -/
def execRorsReg (rdn rs : LowReg) (s : State) : Result :=
  .next (s.putShifted rdn (rorC (s.lo rdn) (shiftByte (s.lo rs)) s.flags.c))

end Sys2Proof.Machine
end

