-- ==== Sys2Proof/Decode.lean ====
section
/-! DEFINITION. Decoding, total on any bytes, and the encoder. A halfword is taken apart as a natural number below
2^16, and an encoding is the base plus its shifted fields, both as 30_encoding.md R150 to R158 write them. All bit
positions are from general knowledge, not in the manual (30_encoding.md R140; notes/assumptions/20.md). -/

namespace Sys2Proof

/-! ### Fields of a halfword -/

/-- Bits lo + len - 1 down to lo of w, as a number (00_scope.md R9). -/
def bitsAt (w lo len : Nat) : Nat := w / 2 ^ lo % 2 ^ len

/-- Bits lo + len - 1 down to lo of w, as a field of that width. -/
def field (w lo len : Nat) : BitVec len := BitVec.ofNat len (w / 2 ^ lo)

/-- One bit of w. -/
def flagAt (w lo : Nat) : Bool := decide (w / 2 ^ lo % 2 = 1)

/-- A bit as a number. -/
def bitVal (p : Bool) : Nat := if p then 1 else 0

/-- The instruction whose first halfword this is has 32 bits (30_encoding.md R140). -/
def isWide (hw1 : Nat) : Bool := decide (29 ≤ bitsAt hw1 11 5)

/-- Condition numbers (40_instruction_conventions.md R191). -/
def condOf : Nat → Option Cond
  | 0 => some .eq | 1 => some .ne | 2 => some .cs | 3 => some .cc
  | 4 => some .mi | 5 => some .pl | 6 => some .vs | 7 => some .vc
  | 8 => some .hi | 9 => some .ls | 10 => some .ge | 11 => some .lt
  | 12 => some .gt | 13 => some .le | _ => none

/-- The condition's number (40_instruction_conventions.md R191). -/
def condNum : Cond → Nat
  | .eq => 0 | .ne => 1 | .cs => 2 | .cc => 3 | .mi => 4 | .pl => 5 | .vs => 6 | .vc => 7
  | .hi => 8 | .ls => 9 | .ge => 10 | .lt => 11 | .gt => 12 | .le => 13

/-! ### The opcode map -/

/-- Data processing on registers, by bits [9:6] (30_encoding.md R151). -/
def decodeDataProcessing (w : Nat) : Option Instr :=
  let rm := field w 3 3
  let rdn := field w 0 3
  match bitsAt w 6 4 with
  | 0 => some (.ands rdn rm)
  | 1 => some (.eors rdn rm)
  | 2 => some (.lslsReg rdn rm)
  | 3 => some (.lsrsReg rdn rm)
  | 4 => some (.asrsReg rdn rm)
  | 5 => some (.adcs rdn rm)
  | 6 => some (.sbcs rdn rm)
  | 7 => some (.rorsReg rdn rm)
  | 8 => some (.tst rdn rm)
  | 9 => some (.rsbs rdn rm)
  | 10 => some (.cmpReg rdn rm)
  | 11 => some (.cmn rdn rm)
  | 12 => some (.orrs rdn rm)
  | 13 => some (.muls rdn rm)
  | 14 => some (.bics rdn rm)
  | 15 => some (.mvns rdn rm)
  | _ => none

/-- The 4-bit register number in bit 7 and bits [2:0] (30_encoding.md R145). -/
def highReg (w : Nat) : Reg := BitVec.ofNat 4 (8 * bitsAt w 7 1 + bitsAt w 0 3)

/-- Special data instructions and branch-and-exchange, by bits [9:7] (30_encoding.md R153). CMP with both registers
low is decoded: it is unpredictable, not undefined (R161). -/
def decodeSpecialData (w : Nat) : Option Instr :=
  match bitsAt w 8 2 with
  | 0 => some (.addHigh (highReg w) (field w 3 4))
  | 1 => some (.cmpHigh (highReg w) (field w 3 4))
  | 2 => some (.movHigh (highReg w) (field w 3 4))
  | _ =>
    if bitsAt w 7 1 = 0 then some (.bx (field w 3 4) (field w 0 3))
    else some (.blx (field w 3 4) (field w 0 3))

/-- Add and subtract with three operands, by bits [10:9] (30_encoding.md R152). -/
def decodeAddSub (w : Nat) : Option Instr :=
  match bitsAt w 9 2 with
  | 0 => some (.addsReg (field w 0 3) (field w 3 3) (field w 6 3))
  | 1 => some (.subsReg (field w 0 3) (field w 3 3) (field w 6 3))
  | 2 => some (.addsImm3 (field w 0 3) (field w 3 3) (field w 6 3))
  | _ => some (.subsImm3 (field w 0 3) (field w 3 3) (field w 6 3))

/-- Loads and stores with a register offset, by bits [11:9] (30_encoding.md R154). -/
def decodeLoadStoreReg (w : Nat) : Option Instr :=
  let rt := field w 0 3
  let rn := field w 3 3
  let rm := field w 6 3
  match bitsAt w 9 3 with
  | 0 => some (.strReg rt rn rm)
  | 1 => some (.strhReg rt rn rm)
  | 2 => some (.strbReg rt rn rm)
  | 3 => some (.ldrsbReg rt rn rm)
  | 4 => some (.ldrReg rt rn rm)
  | 5 => some (.ldrhReg rt rn rm)
  | 6 => some (.ldrbReg rt rn rm)
  | _ => some (.ldrshReg rt rn rm)

/-- Hints, by bits [7:4]; a non-zero low nibble is undefined (30_encoding.md R156, R162). -/
def decodeHint (w : Nat) : Option Instr :=
  if bitsAt w 0 4 = 0 then
    match bitsAt w 4 4 with
    | 0 => some .nop
    | 1 => some .yieldHint
    | 2 => some .wfe
    | 3 => some .wfi
    | 4 => some .sev
    | _ => some (.reservedHint (field w 4 4))
  else none

/-- Miscellaneous 16-bit instructions, by bits [11:8] (30_encoding.md R156). -/
def decodeMisc (w : Nat) : Option Instr :=
  match bitsAt w 8 4 with
  | 0 => if bitsAt w 7 1 = 0 then some (.addSpImm (field w 0 7)) else some (.subSpImm (field w 0 7))
  | 2 =>
    match bitsAt w 6 2 with
    | 0 => some (.sxth (field w 0 3) (field w 3 3))
    | 1 => some (.sxtb (field w 0 3) (field w 3 3))
    | 2 => some (.uxth (field w 0 3) (field w 3 3))
    | _ => some (.uxtb (field w 0 3) (field w 3 3))
  | 4 => some (.push false (field w 0 8))
  | 5 => some (.push true (field w 0 8))
  | 6 =>
    match bitsAt w 4 4 with
    | 6 => some (.cpsie (field w 0 4))
    | 7 => some (.cpsid (field w 0 4))
    | _ => none
  | 10 =>
    match bitsAt w 6 2 with
    | 0 => some (.rev (field w 0 3) (field w 3 3))
    | 1 => some (.rev16 (field w 0 3) (field w 3 3))
    | 3 => some (.revsh (field w 0 3) (field w 3 3))
    | _ => none
  | 12 => some (.pop false (field w 0 8))
  | 13 => some (.pop true (field w 0 8))
  | 14 => some (.bkpt (field w 0 8))
  | 15 => decodeHint w
  | _ => none

/-- Conditional branch, UDF and SVC, by bits [11:8] (30_encoding.md R157). -/
def decodeCondBranch (w : Nat) : Option Instr :=
  match bitsAt w 8 4 with
  | 14 => some (.udf (field w 0 8))
  | 15 => some (.svc (field w 0 8))
  | n => (condOf n).map fun c => .bCond c (field w 0 8)

/-- The 16-bit instructions, by bits [15:11] (30_encoding.md R150, R152 to R157); none where the halfword is
undefined (R160). -/
def decode16 (w : Nat) : Option Instr :=
  match bitsAt w 11 5 with
  | 0 => some (.lslsImm (field w 0 3) (field w 3 3) (field w 6 5))
  | 1 => some (.lsrsImm (field w 0 3) (field w 3 3) (field w 6 5))
  | 2 => some (.asrsImm (field w 0 3) (field w 3 3) (field w 6 5))
  | 3 => decodeAddSub w
  | 4 => some (.movsImm (field w 8 3) (field w 0 8))
  | 5 => some (.cmpImm (field w 8 3) (field w 0 8))
  | 6 => some (.addsImm8 (field w 8 3) (field w 0 8))
  | 7 => some (.subsImm8 (field w 8 3) (field w 0 8))
  | 8 => if bitsAt w 10 1 = 0 then decodeDataProcessing w else decodeSpecialData w
  | 9 => some (.ldrLit (field w 8 3) (field w 0 8))
  | 10 => decodeLoadStoreReg w
  | 11 => decodeLoadStoreReg w
  | 12 => some (.strImm (field w 0 3) (field w 3 3) (field w 6 5))
  | 13 => some (.ldrImm (field w 0 3) (field w 3 3) (field w 6 5))
  | 14 => some (.strbImm (field w 0 3) (field w 3 3) (field w 6 5))
  | 15 => some (.ldrbImm (field w 0 3) (field w 3 3) (field w 6 5))
  | 16 => some (.strhImm (field w 0 3) (field w 3 3) (field w 6 5))
  | 17 => some (.ldrhImm (field w 0 3) (field w 3 3) (field w 6 5))
  | 18 => some (.strSp (field w 8 3) (field w 0 8))
  | 19 => some (.ldrSp (field w 8 3) (field w 0 8))
  | 20 => some (.adr (field w 8 3) (field w 0 8))
  | 21 => some (.addSpRd (field w 8 3) (field w 0 8))
  | 22 => decodeMisc w
  | 23 => decodeMisc w
  | 24 => some (.stm (field w 8 3) (field w 0 8))
  | 25 => some (.ldm (field w 8 3) (field w 0 8))
  | 26 => decodeCondBranch w
  | 27 => decodeCondBranch w
  | 28 => some (.b (field w 0 11))
  | _ => none

/-! ### 32-bit instructions -/

/-- NOT(x XOR y) of two bits. -/
def notXor (x y : Nat) : Nat := (x + y + 1) % 2

/-- The offset field S:I1:I2:imm10:imm11 of BL, in halfwords (30_encoding.md R146). -/
def blOffset (hw1 hw2 : Nat) : BitVec 24 :=
  BitVec.ofNat 24
    (bitsAt hw1 10 1 * 2 ^ 23 + notXor (bitsAt hw2 13 1) (bitsAt hw1 10 1) * 2 ^ 22 +
      notXor (bitsAt hw2 11 1) (bitsAt hw1 10 1) * 2 ^ 21 + bitsAt hw1 0 10 * 2 ^ 11 + bitsAt hw2 0 11)

/-- The should-be bits of a barrier: bits 3 to 0 of the first halfword, bits 13 and 11 to 8 of the second
(30_encoding.md R144). -/
def barrierSb (hw1 hw2 : Nat) : BitVec 9 :=
  BitVec.ofNat 9 (bitsAt hw1 0 4 * 32 + bitsAt hw2 13 1 * 16 + bitsAt hw2 8 4)

/-- DSB, DMB and ISB, by bits [7:4] of the second halfword (30_encoding.md R158). -/
def decodeBarrier (hw1 hw2 : Nat) : Option Instr :=
  match bitsAt hw2 4 4 with
  | 4 => some (.dsb (field hw2 0 4) (barrierSb hw1 hw2))
  | 5 => some (.dmb (field hw2 0 4) (barrierSb hw1 hw2))
  | 6 => some (.isb (field hw2 0 4) (barrierSb hw1 hw2))
  | _ => none

/-- Branch and miscellaneous control with bits 14 and 12 of the second halfword 0, by bits [10:4] of the first
(30_encoding.md R158). -/
def decodeControl (hw1 hw2 : Nat) : Option Instr :=
  match bitsAt hw1 5 6 with
  | 28 => some (.msr (field hw1 0 4) (field hw2 0 8)
      (BitVec.ofNat 6 (bitsAt hw1 4 1 * 32 + bitsAt hw2 13 1 * 16 + bitsAt hw2 8 4)))
  | 29 => if bitsAt hw1 4 1 = 1 then decodeBarrier hw1 hw2 else none
  | 31 => some (.mrs (field hw2 8 4) (field hw2 0 8)
      (BitVec.ofNat 6 (bitsAt hw1 0 5 * 2 + bitsAt hw2 13 1)))
  | 63 =>
    if bitsAt hw1 4 1 = 1 ∧ bitsAt hw2 13 1 = 1 then
      some (.udfW (BitVec.ofNat 16 (bitsAt hw1 0 4 * 4096 + bitsAt hw2 0 12)))
    else none
  | _ => none

/-- The 32-bit instructions (30_encoding.md R158); none where the pair is undefined (R160). -/
def decode32 (hw1 hw2 : Nat) : Option Instr :=
  if bitsAt hw1 11 5 = 30 ∧ bitsAt hw2 15 1 = 1 then
    if bitsAt hw2 14 1 = 1 then
      if bitsAt hw2 12 1 = 1 then some (.bl (blOffset hw1 hw2)) else none
    else if bitsAt hw2 12 1 = 0 then decodeControl hw1 hw2
    else none
  else none

/-! ### Bytes -/

/-- Why bytes are not an instruction. -/
inductive DecodeError where
  /-- fewer bytes than the instruction has -/
  | truncated
  /-- a pattern that is no row of the opcode table (30_encoding.md R160) -/
  | undefined
  deriving DecidableEq, Repr

/-- Decode a first halfword and the halfword after it, which only a 32-bit instruction uses
(30_encoding.md R141). -/
def decodeHalves (hw1 hw2 : Half) : Except DecodeError Instr :=
  match (if isWide hw1.toNat then decode32 hw1.toNat hw2.toNat else decode16 hw1.toNat) with
  | some i => .ok i
  | none => .error .undefined

/-- The halfword two bytes hold, least significant first (20_memory.md R104). -/
def halfOfBytes (lo hi : Byte) : Half := hi ++ lo

/-- Decode the bytes of memory from an instruction's address on: the instruction and the bytes after it. -/
def decode : List Byte → Except DecodeError (Instr × List Byte)
  | b0 :: b1 :: rest =>
    let hw1 := halfOfBytes b0 b1
    if isWide hw1.toNat then
      match rest with
      | b2 :: b3 :: rest' => (decodeHalves hw1 (halfOfBytes b2 b3)).map fun i => (i, rest')
      | _ => .error .truncated
    else (decodeHalves hw1 0).map fun i => (i, rest)
  | _ => .error .truncated

/-! ### Encoding -/

/-- Format DP (30_encoding.md R151). -/
def encodeDp (op4 : Nat) (rm rdn : LowReg) : Nat := 0x4000 + op4 * 64 + rm.toNat * 8 + rdn.toNat

/-- Formats SHI, LSI and LSH: an imm5 above two registers (30_encoding.md R152, R154). -/
def encodeImm5 (base : Nat) (imm5 : BitVec 5) (rm rd : LowReg) : Nat :=
  base + imm5.toNat * 64 + rm.toNat * 8 + rd.toNat

/-- Formats AS3 and LSR: three register-sized fields (30_encoding.md R152, R154). -/
def encodeThree (base : Nat) (hi mid lo : LowReg) : Nat :=
  base + hi.toNat * 64 + mid.toNat * 8 + lo.toNat

/-- Formats I8, LIT, LSS, AD and MIA: a register above an imm8 or a list (30_encoding.md R152 to R157). -/
def encodeImm8 (base : Nat) (r : LowReg) (imm8 : BitVec 8) : Nat := base + r.toNat * 256 + imm8.toNat

/-- Format HI: DN in bit 7, Rm4 in bits [6:3], the low three bits of Rdn (30_encoding.md R153). -/
def encodeHigh (base : Nat) (rdn rm : Reg) : Nat :=
  base + rdn.toNat / 8 * 128 + rm.toNat * 8 + rdn.toNat % 8

/-- Formats EXT and REV: two registers (30_encoding.md R156). -/
def encodeTwo (base : Nat) (rm rd : LowReg) : Nat := base + rm.toNat * 8 + rd.toNat

/-- The two halfwords of BL (44_branch.md R352): J1 = NOT(I1 XOR S), J2 = NOT(I2 XOR S). -/
def encodeBl (off : BitVec 24) : Nat × Nat :=
  (0xF000 + bitsAt off.toNat 23 1 * 1024 + bitsAt off.toNat 11 10,
   0xD000 + notXor (bitsAt off.toNat 22 1) (bitsAt off.toNat 23 1) * 8192 +
     notXor (bitsAt off.toNat 21 1) (bitsAt off.toNat 23 1) * 2048 + bitsAt off.toNat 0 11)

/-- The two halfwords of a barrier with opcode opc (30_encoding.md R144). -/
def encodeBarrier (opc : Nat) (option : BitVec 4) (sb : BitVec 9) : Nat × Nat :=
  (0xF3B0 + bitsAt sb.toNat 5 4,
   0x8000 + bitsAt sb.toNat 4 1 * 8192 + bitsAt sb.toNat 0 4 * 256 + opc * 16 + option.toNat)

/-- The instruction's halfwords as numbers, the first at the lower address: one for a 16-bit instruction, two for a
32-bit one (30_encoding.md R150 to R158). -/
def encodeNat : Instr → List Nat
  | .lslsImm rd rm imm5 => [encodeImm5 0x0000 imm5 rm rd]
  | .lsrsImm rd rm imm5 => [encodeImm5 0x0800 imm5 rm rd]
  | .asrsImm rd rm imm5 => [encodeImm5 0x1000 imm5 rm rd]
  | .addsReg rd rn rm => [encodeThree 0x1800 rm rn rd]
  | .subsReg rd rn rm => [encodeThree 0x1A00 rm rn rd]
  | .addsImm3 rd rn imm3 => [encodeThree 0x1C00 imm3 rn rd]
  | .subsImm3 rd rn imm3 => [encodeThree 0x1E00 imm3 rn rd]
  | .movsImm rd imm8 => [encodeImm8 0x2000 rd imm8]
  | .cmpImm rn imm8 => [encodeImm8 0x2800 rn imm8]
  | .addsImm8 rdn imm8 => [encodeImm8 0x3000 rdn imm8]
  | .subsImm8 rdn imm8 => [encodeImm8 0x3800 rdn imm8]
  | .ands rdn rm => [encodeDp 0 rm rdn]
  | .eors rdn rm => [encodeDp 1 rm rdn]
  | .lslsReg rdn rs => [encodeDp 2 rs rdn]
  | .lsrsReg rdn rs => [encodeDp 3 rs rdn]
  | .asrsReg rdn rs => [encodeDp 4 rs rdn]
  | .adcs rdn rm => [encodeDp 5 rm rdn]
  | .sbcs rdn rm => [encodeDp 6 rm rdn]
  | .rorsReg rdn rs => [encodeDp 7 rs rdn]
  | .tst rn rm => [encodeDp 8 rm rn]
  | .rsbs rd rn => [encodeDp 9 rn rd]
  | .cmpReg rn rm => [encodeDp 10 rm rn]
  | .cmn rn rm => [encodeDp 11 rm rn]
  | .orrs rdn rm => [encodeDp 12 rm rdn]
  | .muls rdm rn => [encodeDp 13 rn rdm]
  | .bics rdn rm => [encodeDp 14 rm rdn]
  | .mvns rd rm => [encodeDp 15 rm rd]
  | .addHigh rdn rm => [encodeHigh 0x4400 rdn rm]
  | .cmpHigh rn rm => [encodeHigh 0x4500 rn rm]
  | .movHigh rd rm => [encodeHigh 0x4600 rd rm]
  | .bx rm sb => [0x4700 + rm.toNat * 8 + sb.toNat]
  | .blx rm sb => [0x4780 + rm.toNat * 8 + sb.toNat]
  | .ldrLit rt imm8 => [encodeImm8 0x4800 rt imm8]
  | .strReg rt rn rm => [encodeThree 0x5000 rm rn rt]
  | .strhReg rt rn rm => [encodeThree 0x5200 rm rn rt]
  | .strbReg rt rn rm => [encodeThree 0x5400 rm rn rt]
  | .ldrsbReg rt rn rm => [encodeThree 0x5600 rm rn rt]
  | .ldrReg rt rn rm => [encodeThree 0x5800 rm rn rt]
  | .ldrhReg rt rn rm => [encodeThree 0x5A00 rm rn rt]
  | .ldrbReg rt rn rm => [encodeThree 0x5C00 rm rn rt]
  | .ldrshReg rt rn rm => [encodeThree 0x5E00 rm rn rt]
  | .strImm rt rn imm5 => [encodeImm5 0x6000 imm5 rn rt]
  | .ldrImm rt rn imm5 => [encodeImm5 0x6800 imm5 rn rt]
  | .strbImm rt rn imm5 => [encodeImm5 0x7000 imm5 rn rt]
  | .ldrbImm rt rn imm5 => [encodeImm5 0x7800 imm5 rn rt]
  | .strhImm rt rn imm5 => [encodeImm5 0x8000 imm5 rn rt]
  | .ldrhImm rt rn imm5 => [encodeImm5 0x8800 imm5 rn rt]
  | .strSp rt imm8 => [encodeImm8 0x9000 rt imm8]
  | .ldrSp rt imm8 => [encodeImm8 0x9800 rt imm8]
  | .adr rd imm8 => [encodeImm8 0xA000 rd imm8]
  | .addSpRd rd imm8 => [encodeImm8 0xA800 rd imm8]
  | .addSpImm imm7 => [0xB000 + imm7.toNat]
  | .subSpImm imm7 => [0xB080 + imm7.toNat]
  | .sxth rd rm => [encodeTwo 0xB200 rm rd]
  | .sxtb rd rm => [encodeTwo 0xB240 rm rd]
  | .uxth rd rm => [encodeTwo 0xB280 rm rd]
  | .uxtb rd rm => [encodeTwo 0xB2C0 rm rd]
  | .push m list => [0xB400 + bitVal m * 256 + list.toNat]
  | .cpsie sb => [0xB660 + sb.toNat]
  | .cpsid sb => [0xB670 + sb.toNat]
  | .rev rd rm => [encodeTwo 0xBA00 rm rd]
  | .rev16 rd rm => [encodeTwo 0xBA40 rm rd]
  | .revsh rd rm => [encodeTwo 0xBAC0 rm rd]
  | .pop p list => [0xBC00 + bitVal p * 256 + list.toNat]
  | .bkpt imm8 => [0xBE00 + imm8.toNat]
  | .nop => [0xBF00]
  | .yieldHint => [0xBF10]
  | .wfe => [0xBF20]
  | .wfi => [0xBF30]
  | .sev => [0xBF40]
  | .reservedHint opA => [0xBF00 + opA.toNat * 16]
  | .stm rn list => [encodeImm8 0xC000 rn list]
  | .ldm rn list => [encodeImm8 0xC800 rn list]
  | .bCond cond imm8 => [0xD000 + condNum cond * 256 + imm8.toNat]
  | .udf imm8 => [0xDE00 + imm8.toNat]
  | .svc imm8 => [0xDF00 + imm8.toNat]
  | .b imm11 => [0xE000 + imm11.toNat]
  | .bl off => [(encodeBl off).1, (encodeBl off).2]
  | .msr rn sysm sb =>
    [0xF380 + bitsAt sb.toNat 5 1 * 16 + rn.toNat,
     0x8000 + bitsAt sb.toNat 4 1 * 8192 + bitsAt sb.toNat 0 4 * 256 + sysm.toNat]
  | .mrs rd sysm sb =>
    [0xF3E0 + bitsAt sb.toNat 1 5, 0x8000 + bitsAt sb.toNat 0 1 * 8192 + rd.toNat * 256 + sysm.toNat]
  | .dsb option sb => [(encodeBarrier 4 option sb).1, (encodeBarrier 4 option sb).2]
  | .dmb option sb => [(encodeBarrier 5 option sb).1, (encodeBarrier 5 option sb).2]
  | .isb option sb => [(encodeBarrier 6 option sb).1, (encodeBarrier 6 option sb).2]
  | .udfW imm16 => [0xF7F0 + bitsAt imm16.toNat 12 4, 0xA000 + bitsAt imm16.toNat 0 12]

/-- The words of an instruction: its halfwords, the first at the lower address. -/
def encode (i : Instr) : List Half := (encodeNat i).map (BitVec.ofNat 16)

/-- The two bytes of a halfword, least significant first (20_memory.md R104). -/
def halfBytes (h : Half) : List Byte := [BitVec.ofNat 8 h.toNat, BitVec.ofNat 8 (h.toNat / 256)]

/-- The bytes of an instruction as memory holds them. -/
def encodeBytes (i : Instr) : List Byte := (encode i).flatMap halfBytes

/-! ### The opcode table's numbering -/

/-- The four bytes of the instruction whose bits the opcode table numbers as w: a 16-bit row is one halfword, followed
here by a halfword of zeros; a 32-bit row is (first halfword << 16) + second halfword (30_encoding.md R160). -/
def tableWordBytes (nbits w : Nat) : List Byte :=
  if nbits ≤ 16 then halfBytes (BitVec.ofNat 16 w) ++ halfBytes 0
  else halfBytes (BitVec.ofNat 16 (w / 2 ^ 16)) ++ halfBytes (BitVec.ofNat 16 w)

/-- The instruction the decoder reads from an instruction whose bits are w, numbered as spec/opcode_table.json
numbers them (notes/assumptions/46.md). -/
def decodeTableWord (nbits w : Nat) : Option Instr :=
  match decode (tableWordBytes nbits w) with
  | .ok (i, _) => some i
  | .error _ => none

end Sys2Proof
end

