-- ==== Sys2Proof/Machine/Boundary.lean ====
section
/-! DEFINITION. What a step does around an instruction: the environment's choices, reset, sleep, and the fetch
(70_reset_and_hazards.md R480, 60_exceptions.md R410, R460 to R465, 30_encoding.md R141). -/

namespace Sys2Proof.Machine

/-! ### The environment -/

/-- What the environment does when its schedule is empty: a line that a level drives stays as it is and one that
pulses is low, nothing else happens, and a latched reset request is answered (00_scope.md R16, 60_exceptions.md R441,
70_reset_and_hazards.md R483; notes/assumptions/9.md, 34.md). -/
def State.idleEnv (s : State) : EnvStep :=
  { quietEnv with reset := s.resetReq, sample := ⟨[], s.nvic.linePrev &&& ~~~s.platform.pulseLines⟩ }

/-- Take the environment's choices for this step from the schedule. -/
def State.nextEnv (s : State) : State :=
  match s.future with
  | [] => { s with env := s.idleEnv }
  | e :: es => { s with env := e, future := es }

/-! ### Reset -/

/-- Thirteen registers at free values. -/
def freeRegs (k : Nat) : Vector Word 13 := Vector.ofFn fun i => Config.freeWord (k + i.val)

/-- The state after reset, before the two words at addresses 0 and 4 are loaded: the values of 10_state.md R90,
with a free value for each that is unknown (92_eei_decisions.md D6). The memory, the platform and the environment's
schedule are not the core's and stay. -/
def State.resetCore (s : State) : State :=
  { s with
    r := freeRegs s.free
    psp := wordAligned (Config.freeWord (s.free + 13))
    lr := Config.freeWord (s.free + 14)
    flags := Flags.ofWord (Config.freeWord (s.free + 15))
    event := (Config.freeWord (s.free + 15)).getLsbD 0
    ipsr := State.reset.ipsr
    primask := State.reset.primask
    spsel := State.reset.spsel
    run := State.reset.run
    nvic := State.reset.nvic
    scr := State.reset.scr
    sysTick :=
      { State.reset.sysTick with
        reload := (Config.freeWord (s.free + 16)).setWidth 24
        current := (Config.freeWord (s.free + 17)).setWidth 24 }
    resetReq := State.reset.resetReq
    free := s.free + 18 }

/-- Continue from the two words of the vector table: MSP from the first, PC and T from the second
(70_reset_and_hazards.md R480). -/
def State.boot (s : State) (w0 w1 : Word) : State :=
  { s with msp := wordAligned w0, pc := halfAligned w1, thumb := w1.getLsbD 0 }

/-- Reset is released (70_reset_and_hazards.md R480). A bus error on one of the two reads has no effect in the spec
(R482). -/
def resetSequence (s : State) : Result :=
  match loadWords 2 0 s.resetCore with
  | .ok ws s1 => .next (s1.boot (ws.getD 0 0) (ws.getD 1 0))
  | .abort _ _ => .fault .resetVectorBusError
  | .refused r => .refused r

/-! ### Sleep -/

/-- An exception waits that would be taken if PRIMASK were clear (60_exceptions.md R465). -/
def State.wakesMasked (s : State) : Bool := (s.nvic.candidateAbove s.execPriorityIgnoringPrimask).isSome

/-- The processor wakes and goes on at the PC. -/
def State.wakeUp (s : State) : State := { s with run := .running }

/-- The processor sleeps (60_exceptions.md R460). -/
def State.sleep (s : State) (w : WakeSet) : State := { s with run := .sleeping w }

/-- The event register is cleared: only WFE does this (60_exceptions.md R464). -/
def State.clearEvent (s : State) : State := { s with event := false }

/-- One step of a sleeping processor (60_exceptions.md R461, R462, R465): take an exception that may be taken; else
wake for one that only PRIMASK holds back, for an event, or without cause; else sleep on. Where both ends of a WFE
sleep hold at once, an exception that may be taken and the event register set, R462 gives no order: the exception is
taken and the event register stays set, so that the next WFE completes at once. DESIGN CHOICE
(notes/assumptions/47.md). -/
def sleepStep (w : WakeSet) (s : State) : Result :=
  match s.preempting with
  | some n => takeException n s.pc s
  | none =>
    match w with
    | .wfi => if s.wakesMasked || s.env.wake then .next s.wakeUp else .next s
    | .wfe =>
      if s.event then .next s.clearEvent.wakeUp
      else if s.env.wake then .next s.wakeUp
      else .next s

/-! ### Fetch -/

/-- The halfword at an address as an instruction fetch (20_memory.md R103, R105; 30_encoding.md R141). -/
def fetchHalf (addr : Word) (s : State) : Access Half :=
  if executeNever addr then .abort .executeNever s
  else ((memRead 2 addr s).withCause .fetchBusError).bind fun v s1 => .ok (v.setWidth 16) s1

/-- Fetch the halfwords of the instruction at the PC and decode them (30_encoding.md R141 steps 1 to 6). -/
def fetch (s : State) : Access Instr :=
  if s.thumb then
    (fetchHalf s.pc s).bind fun hw1 s1 =>
      if isWide hw1.toNat then
        (fetchHalf (s.pc + 2) s1).bind fun hw2 s2 => decoded (decodeHalves hw1 hw2) s2
      else decoded (decodeHalves hw1 0) s1
  else .abort .notThumb s
where
  /-- an undefined pattern is fault cause [7] (30_encoding.md R160) -/
  decoded (d : Except DecodeError Instr) (s : State) : Access Instr :=
    match d with
    | .ok i => .ok i s
    | .error _ => .abort .undefinedInstruction s

end Sys2Proof.Machine
end

