-- ==== Sys2Proof/Machine/System.lean ====
section
/-! DEFINITION. The meanings of the miscellaneous instructions (45_miscellaneous.md) and of the permanently undefined
ones (30_encoding.md R160). There is no privilege check (60_exceptions.md R470). -/

namespace Sys2Proof.Machine

/-- BKPT #imm: HardFault with no debugger (45 R370). Debug state is out of scope (00_scope.md R5). -/
def execBkpt (_imm8 : BitVec 8) (s : State) : Result :=
  if s.platform.debugger then .refused .debugState else raiseHardFault .bkptNoDebugger s

/-- Write PRIMASK. -/
def State.setPrimask (s : State) (p : Bool) : State := { s with primask := p }

/-- CPSID i (45 R371). -/
def execCpsid (sb : BitVec 4) (s : State) : Result :=
  if sb ≠ sbCps then .refused .shouldBeBits else .next ((s.setPrimask true).advance 2)

/-- CPSIE i (45 R375). -/
def execCpsie (sb : BitVec 4) (s : State) : Result :=
  if sb ≠ sbCps then .refused .shouldBeBits else .next ((s.setPrimask false).advance 2)

/-- DMB: every access happens in program order, so no state changes; a reserved option behaves as 1111
(45 R372, 20 R122, 30 R162). -/
def execDmb (_option : BitVec 4) (sb : BitVec 9) (s : State) : Result :=
  if sb ≠ sbBarrier then .refused .shouldBeBits else .next (s.advance 4)

/-- DSB: as DMB (45 R373, 20 R122, 30 R162). -/
def execDsb (_option : BitVec 4) (sb : BitVec 9) (s : State) : Result :=
  if sb ≠ sbBarrier then .refused .shouldBeBits else .next (s.advance 4)

/-- ISB: every fetch reads memory when the instruction executes, so no state changes (45 R374, 20 R130, 30 R162). -/
def execIsb (_option : BitVec 4) (sb : BitVec 9) (s : State) : Result :=
  if sb ≠ sbBarrier then .refused .shouldBeBits else .next (s.advance 4)

/-- The bits of the PSR's names that have a stated value, and those values (45 R379): the flags where the name holds
the APSR, T as 0 where it holds the EPSR, the exception number where it holds the IPSR. -/
def State.psrBits (s : State) (apsr ipsr : Bool) : Word :=
  (if apsr then s.flags.bits ++ 0#28 else 0#32) ||| (if ipsr then s.ipsr.setWidth 32 else 0#32)

/-- The mask of the bits with a stated value in a name of the PSR (45 R379). -/
def psrMask (apsr epsr ipsr : Bool) : Word :=
  (if apsr then 0xF0000000#32 else 0#32) ||| (if epsr then 0x01000000#32 else 0#32) |||
  (if ipsr then 0x0000003F#32 else 0#32)

/-- What MRS reads (45 R379): the stated bits and the mask of the bits that are stated; the others are reserved. A
read of the EPSR alone is 0 in all its bits (10_state.md R29, R30). -/
def State.specRead (s : State) : SpecReg → Word × Word
  | .apsr => (s.psrBits true false, psrMask true false false)
  | .iapsr => (s.psrBits true true, psrMask true false true)
  | .eapsr => (s.psrBits true false, psrMask true true false)
  | .psr => (s.psrBits true true, psrMask true true true)
  | .ipsr => (s.psrBits false true, psrMask false false true)
  | .epsr => (0, 0xFFFFFFFF#32)
  | .iepsr => (s.psrBits false true, psrMask false true true)
  | .msp => (s.msp, 0xFFFFFFFF#32)
  | .psp => (s.psp, 0xFFFFFFFF#32)
  | .primask => (boolWord s.primask, 1#32)
  | .control => (bitWord (s.threadMode && s.spsel) 1, 2#32)

/-- MRS Rd, spec_reg; reserved bits are free values (45 R379, D30). -/
def execMrs (rd : Reg) (sysm : BitVec 8) (sb : BitVec 6) (s : State) : Result :=
  if sb ≠ sbMrs then .refused .shouldBeBits
  else if rd = 13 ∨ rd = 15 then .refused .specialSpOrPc
  else
    match specRegOf sysm with
    | none => .refused .unknownSysm
    | some reg =>
      .next (((s.drawn 1).setX rd (mixFree (s.specRead reg).1 (s.specRead reg).2 s.freeValue)).advance 4)

/-- Write the flags from bits 31 to 28 of a word. -/
def State.setFlagsFrom (s : State) (v : Word) : State := { s with flags := Flags.ofWord v }

/-- Write the main stack pointer by name. -/
def State.setMsp (s : State) (v : Word) : State := { s with msp := wordAligned v }

/-- Write the process stack pointer by name. -/
def State.setPsp (s : State) (v : Word) : State := { s with psp := wordAligned v }

/-- Write CONTROL: bit 1 in Thread mode, nothing in Handler mode (10_state.md R32). -/
def State.setControl (s : State) (v : Word) : State :=
  { s with spsel := if s.threadMode then v.getLsbD 1 else s.spsel }

/-- What MSR writes (45 R380). -/
def State.specWrite (s : State) (v : Word) : SpecReg → State
  | .apsr => s.setFlagsFrom v
  | .iapsr => s.setFlagsFrom v
  | .eapsr => s.setFlagsFrom v
  | .psr => s.setFlagsFrom v
  | .ipsr => s
  | .epsr => s
  | .iepsr => s
  | .msp => s.setMsp v
  | .psp => s.setPsp v
  | .primask => s.setPrimask (v.getLsbD 0)
  | .control => s.setControl v

/-- MSR spec_reg, Rn (45 R380). -/
def execMsr (rn : Reg) (sysm : BitVec 8) (sb : BitVec 6) (s : State) : Result :=
  if sb ≠ sbMsr then .refused .shouldBeBits
  else if rn = 13 ∨ rn = 15 then .refused .specialSpOrPc
  else
    match specRegOf sysm with
    | none => .refused .unknownSysm
    | some reg => .next ((s.specWrite (s.x rn) reg).advance 4)

/-- NOP (45 R381). -/
def execNop (s : State) : Result := .next (s.advance 2)

/-- YIELD: executes as NOP (45 R386). -/
def execYieldHint (s : State) : Result := .next (s.advance 2)

/-- An unallocated hint: architecturally a NOP (30 R162; notes/assumptions/24.md). The term must be one of the
eleven. -/
def execReservedHint (_opA : BitVec 4) (s : State) : Result := .next (s.advance 2)

/-- SEV: sets the local event register (45 R382). -/
def execSev (s : State) : Result := .next (s.setEvent.advance 2)

/-- WFE by the platform's `WfeMode`: refused; or, with the event register set, clear it and complete, else complete
at once or sleep, as the environment chooses (45 R384; notes/assumptions/12.md). -/
def execWfe (s : State) : Result :=
  match s.platform.wfeMode with
  | .refuse => .refused .wfeUnusable
  | .nondeterministic =>
    if s.event then .next (s.clearEvent.advance 2)
    else if s.env.wake then .next (s.advance 2)
    else .next ((s.sleep .wfe).advance 2)

/-- WFI: complete at once where an exception waits that PRIMASK at most holds back, or where the environment wakes
the processor; else sleep (45 R385). -/
def execWfi (s : State) : Result :=
  if s.wakesMasked || s.env.wake then .next (s.advance 2) else .next ((s.sleep .wfi).advance 2)

/-- SVC #imm: at an execution priority at or above SVCall's it is a fault; else SVCall becomes pending with the
return address behind the SVC, the lines are sampled as the environment says, and the exception to be taken is taken at
once: SVCall, or one of higher priority that comes late, SVCall staying pending (45 R383, D15; 60_exceptions.md R409,
R423; notes/assumptions/38.md). -/
def execSvc (_imm8 : BitVec 8) (s : State) : Result :=
  if s.execPriority ≤ s.nvic.priority excSvCall then raiseHardFault .svcPriority s
  else
    let s1 := ((s.pend excSvCall).advance 2).interrupted
    match s1.preempting with
    | some n => takeException n s1.pc s1
    | none => .next s1

/-- UDF #imm: permanently undefined (30 R160). -/
def execUdf (_imm8 : BitVec 8) (s : State) : Result := raiseHardFault .undefinedInstruction s

/-- UDF.W #imm: permanently undefined (30 R160). -/
def execUdfW (_imm16 : BitVec 16) (s : State) : Result := raiseHardFault .undefinedInstruction s

end Sys2Proof.Machine
end

