-- ==== Sys2Proof/Machine/Dispatch.lean ====
section
/-! DEFINITION. One arm per constructor of Instr: the instruction's meaning. -/

namespace Sys2Proof.Machine

/-- What an instruction does: step 4 and 5 of 40_instruction_conventions.md R181. -/
def exec (i : Instr) (s : State) : Host.Outcome State Fault Refusal :=
  match i with
  | .lslsImm rd rm imm5 => Sys2Proof.Machine.execLslsImm rd rm imm5 s
  | .lsrsImm rd rm imm5 => Sys2Proof.Machine.execLsrsImm rd rm imm5 s
  | .asrsImm rd rm imm5 => Sys2Proof.Machine.execAsrsImm rd rm imm5 s
  | .addsReg rd rn rm => Sys2Proof.Machine.execAddsReg rd rn rm s
  | .subsReg rd rn rm => Sys2Proof.Machine.execSubsReg rd rn rm s
  | .addsImm3 rd rn imm3 => Sys2Proof.Machine.execAddsImm3 rd rn imm3 s
  | .subsImm3 rd rn imm3 => Sys2Proof.Machine.execSubsImm3 rd rn imm3 s
  | .movsImm rd imm8 => Sys2Proof.Machine.execMovsImm rd imm8 s
  | .cmpImm rn imm8 => Sys2Proof.Machine.execCmpImm rn imm8 s
  | .addsImm8 rdn imm8 => Sys2Proof.Machine.execAddsImm8 rdn imm8 s
  | .subsImm8 rdn imm8 => Sys2Proof.Machine.execSubsImm8 rdn imm8 s
  | .ands rdn rm => Sys2Proof.Machine.execAnds rdn rm s
  | .eors rdn rm => Sys2Proof.Machine.execEors rdn rm s
  | .lslsReg rdn rs => Sys2Proof.Machine.execLslsReg rdn rs s
  | .lsrsReg rdn rs => Sys2Proof.Machine.execLsrsReg rdn rs s
  | .asrsReg rdn rs => Sys2Proof.Machine.execAsrsReg rdn rs s
  | .adcs rdn rm => Sys2Proof.Machine.execAdcs rdn rm s
  | .sbcs rdn rm => Sys2Proof.Machine.execSbcs rdn rm s
  | .rorsReg rdn rs => Sys2Proof.Machine.execRorsReg rdn rs s
  | .tst rn rm => Sys2Proof.Machine.execTst rn rm s
  | .rsbs rd rn => Sys2Proof.Machine.execRsbs rd rn s
  | .cmpReg rn rm => Sys2Proof.Machine.execCmpReg rn rm s
  | .cmn rn rm => Sys2Proof.Machine.execCmn rn rm s
  | .orrs rdn rm => Sys2Proof.Machine.execOrrs rdn rm s
  | .muls rdm rn => Sys2Proof.Machine.execMuls rdm rn s
  | .bics rdn rm => Sys2Proof.Machine.execBics rdn rm s
  | .mvns rd rm => Sys2Proof.Machine.execMvns rd rm s
  | .addHigh rdn rm => Sys2Proof.Machine.execAddHigh rdn rm s
  | .cmpHigh rn rm => Sys2Proof.Machine.execCmpHigh rn rm s
  | .movHigh rd rm => Sys2Proof.Machine.execMovHigh rd rm s
  | .bx rm sb => Sys2Proof.Machine.execBx rm sb s
  | .blx rm sb => Sys2Proof.Machine.execBlx rm sb s
  | .ldrLit rt imm8 => Sys2Proof.Machine.execLdrLit rt imm8 s
  | .strReg rt rn rm => Sys2Proof.Machine.execStrReg rt rn rm s
  | .strhReg rt rn rm => Sys2Proof.Machine.execStrhReg rt rn rm s
  | .strbReg rt rn rm => Sys2Proof.Machine.execStrbReg rt rn rm s
  | .ldrsbReg rt rn rm => Sys2Proof.Machine.execLdrsbReg rt rn rm s
  | .ldrReg rt rn rm => Sys2Proof.Machine.execLdrReg rt rn rm s
  | .ldrhReg rt rn rm => Sys2Proof.Machine.execLdrhReg rt rn rm s
  | .ldrbReg rt rn rm => Sys2Proof.Machine.execLdrbReg rt rn rm s
  | .ldrshReg rt rn rm => Sys2Proof.Machine.execLdrshReg rt rn rm s
  | .strImm rt rn imm5 => Sys2Proof.Machine.execStrImm rt rn imm5 s
  | .ldrImm rt rn imm5 => Sys2Proof.Machine.execLdrImm rt rn imm5 s
  | .strbImm rt rn imm5 => Sys2Proof.Machine.execStrbImm rt rn imm5 s
  | .ldrbImm rt rn imm5 => Sys2Proof.Machine.execLdrbImm rt rn imm5 s
  | .strhImm rt rn imm5 => Sys2Proof.Machine.execStrhImm rt rn imm5 s
  | .ldrhImm rt rn imm5 => Sys2Proof.Machine.execLdrhImm rt rn imm5 s
  | .strSp rt imm8 => Sys2Proof.Machine.execStrSp rt imm8 s
  | .ldrSp rt imm8 => Sys2Proof.Machine.execLdrSp rt imm8 s
  | .adr rd imm8 => Sys2Proof.Machine.execAdr rd imm8 s
  | .addSpRd rd imm8 => Sys2Proof.Machine.execAddSpRd rd imm8 s
  | .addSpImm imm7 => Sys2Proof.Machine.execAddSpImm imm7 s
  | .subSpImm imm7 => Sys2Proof.Machine.execSubSpImm imm7 s
  | .sxth rd rm => Sys2Proof.Machine.execSxth rd rm s
  | .sxtb rd rm => Sys2Proof.Machine.execSxtb rd rm s
  | .uxth rd rm => Sys2Proof.Machine.execUxth rd rm s
  | .uxtb rd rm => Sys2Proof.Machine.execUxtb rd rm s
  | .push m list => Sys2Proof.Machine.execPush m list s
  | .cpsie sb => Sys2Proof.Machine.execCpsie sb s
  | .cpsid sb => Sys2Proof.Machine.execCpsid sb s
  | .rev rd rm => Sys2Proof.Machine.execRev rd rm s
  | .rev16 rd rm => Sys2Proof.Machine.execRev16 rd rm s
  | .revsh rd rm => Sys2Proof.Machine.execRevsh rd rm s
  | .pop p list => Sys2Proof.Machine.execPop p list s
  | .bkpt imm8 => Sys2Proof.Machine.execBkpt imm8 s
  | .nop => Sys2Proof.Machine.execNop s
  | .yieldHint => Sys2Proof.Machine.execYieldHint s
  | .wfe => Sys2Proof.Machine.execWfe s
  | .wfi => Sys2Proof.Machine.execWfi s
  | .sev => Sys2Proof.Machine.execSev s
  | .reservedHint opA => Sys2Proof.Machine.execReservedHint opA s
  | .stm rn list => Sys2Proof.Machine.execStm rn list s
  | .ldm rn list => Sys2Proof.Machine.execLdm rn list s
  | .bCond cond imm8 => Sys2Proof.Machine.execBCond cond imm8 s
  | .udf imm8 => Sys2Proof.Machine.execUdf imm8 s
  | .svc imm8 => Sys2Proof.Machine.execSvc imm8 s
  | .b imm11 => Sys2Proof.Machine.execB imm11 s
  | .bl off => Sys2Proof.Machine.execBl off s
  | .msr rn sysm sb => Sys2Proof.Machine.execMsr rn sysm sb s
  | .mrs rd sysm sb => Sys2Proof.Machine.execMrs rd sysm sb s
  | .dsb option sb => Sys2Proof.Machine.execDsb option sb s
  | .dmb option sb => Sys2Proof.Machine.execDmb option sb s
  | .isb option sb => Sys2Proof.Machine.execIsb option sb s
  | .udfW imm16 => Sys2Proof.Machine.execUdfW imm16 s

end Sys2Proof.Machine
end

