-- ==== Sys2Proof/Machine/Step.lean ====
section
/-! DEFINITION. One step of the machine (40_instruction_conventions.md R181, 00_scope.md R13), and how the host places
an instruction where it fetches. -/

namespace Sys2Proof.Machine

/-- Fetch, decode and execute the instruction at the PC; a fault of the fetch is taken with that address as return
address (30_encoding.md R141, 60_exceptions.md R423). -/
def runInstr (s : State) : Result := (fetch s).finish exec

/-- What the processor does in a step, once the other agents have acted: at a boundary take an exception that may be
taken, else run an instruction; asleep, sleep or wake; in lockup, nothing (60_exceptions.md R410, R426, R461). -/
def act (s : State) : Result :=
  match s.run with
  | .running =>
    match s.preempting with
    | some n => takeException n s.pc s
    | none => runInstr s
  | .sleeping w => sleepStep w s
  | .lockup => .next s
  | .inReset => .next s

/-- One step: the environment's choices are taken from its schedule; while reset is asserted nothing else happens;
when it is released the reset sequence runs; else the other agents act and then the processor. -/
def step (s : State) : Host.Outcome State Fault Refusal :=
  let s1 := s.nextEnv
  if s1.env.reset then .next s1.holdReset
  else if s1.run = .inReset then resetSequence s1
  else act s1.agents

/-- The state with the instruction whose bits the opcode table numbers as w stored where step fetches its next
instruction, in Thumb state, which a fetch needs (notes/assumptions/1.md). -/
def State.withFetchWord (s : State) (nbits w : Nat) : State :=
  { s with mem := Memory.storeBytes s.mem s.pc.toNat (tableWordBytes nbits w), thumb := true }

end Sys2Proof.Machine
end

