-- ==== Sys2Proof/Safety.lean ====
section
/-! DEFINITION. What counts as a well-kept state and as a state that can go on: the terms claims use. -/

namespace Sys2Proof.Machine

/-- The memory is in its canonical form. -/
abbrev State.memoryCanonical (s : State) : Prop := Memory.wf s.mem = true

/-- Both stack pointers are word-aligned (10_state.md R23). -/
abbrev State.stacksAligned (s : State) : Prop := s.msp.toNat % 4 = 0 ∧ s.psp.toNat % 4 = 0

/-- The PC is halfword-aligned (10_state.md R25). -/
abbrev State.pcAligned (s : State) : Prop := s.pc.toNat % 2 = 0

/-- PSP is selected only in Thread mode (10_state.md R32). -/
abbrev State.spselThreadOnly (s : State) : Prop := s.spsel = true → s.ipsr = 0

/-- The bits of the exceptions this chip has: HardFault, SVCall, PendSV, SysTick, IRQ0 to IRQ31 (10_state.md R28;
NMI is absent, 92_eei_decisions.md D7). -/
def legalExceptions : BitVec 48 := 0xFFFFFFFFC808#48

/-- Only exceptions this chip has are pending or active (10_state.md R36, 93_implementation_defined.md U15). -/
abbrev State.exceptionsLegal (s : State) : Prop :=
  s.nvic.pending &&& ~~~legalExceptions = 0 ∧ s.nvic.active &&& ~~~legalExceptions = 0

/-- The processor can still run: it is neither locked up nor held in reset (10_state.md R37). -/
abbrev State.alive (s : State) : Prop := s.run ≠ .lockup ∧ s.run ≠ .inReset

/-- IPSR agrees with the active exceptions: Thread mode exactly when none is active, and in Handler mode the one
named is active (10_state.md R28, R33, R36). -/
abbrev State.modeAgrees (s : State) : Prop :=
  (s.ipsr = 0 ∧ s.nvic.active = 0) ∨ (s.ipsr ≠ 0 ∧ s.nvic.active.getLsbD s.ipsr.toNat = true)

/-- The invariant of the whole machine. A processor in lockup or held in reset need not agree on its mode: a bus
error in an exception return leaves IPSR naming an exception that is no longer active (60_exceptions.md R426). -/
structure State.Inv (s : State) : Prop where
  memory : s.memoryCanonical
  stackPointers : s.stacksAligned
  pc : s.pcAligned
  spsel : s.spselThreadOnly
  exceptions : s.exceptionsLegal
  mode : s.alive → s.modeAgrees

/-- The accesses of n words from an address on all reach RAM outside the private peripheral bus. -/
abbrev State.ramWords (s : State) (addr : Word) (n : Nat) : Prop :=
  ∀ k < n, inPpb (addr + BitVec.ofNat 32 (4 * k)) = false ∧ s.kindAt (addr + BitVec.ofNat 32 (4 * k)) = .ram

/-- Nothing from outside comes between the parts of this step's instruction: no reset inside a multiple transfer, no
interruption. -/
abbrev State.undisturbed (s : State) : Prop := s.env.resetInTransfer = none ∧ s.env.mid = none

/-- Vectors can be fetched: the vector table lies in RAM or ROM (60_exceptions.md R404, 70_reset_and_hazards.md
R481). -/
abbrev State.vectorsReadable (s : State) : Prop :=
  ∀ n < 48, s.kindAt (vectorAddress n) = .ram ∨ s.kindAt (vectorAddress n) = .romIgnore ∨
    s.kindAt (vectorAddress n) = .romBusError

end Sys2Proof.Machine
end

