-- ==== Sys2Proof/Certificates/Slice0/Obligations.lean ====
section
/-! DEFINITION. The statements for the provers, and the terms they are written in. A statement about an instruction
gives the whole next state as a record update of the old one, or a next state t with an equation that fixes every
field it does not speak of: that is its frame. -/

namespace Sys2Proof.Claims

open Sys2Proof.Machine

/-! ### Terms -/

/-- The word that four bytes of memory hold, least significant first (20_memory.md R104). -/
def wordAt (s : State) (a : Word) : Word :=
  Memory.read s.mem (a.toNat + 3) ++ Memory.read s.mem (a.toNat + 2) ++ Memory.read s.mem (a.toNat + 1) ++
    Memory.read s.mem a.toNat

/-- The halfword that two bytes of memory hold, least significant first (20_memory.md R104). -/
def halfAt (s : State) (a : Word) : Half := Memory.read s.mem (a.toNat + 1) ++ Memory.read s.mem a.toNat

/-- The byte of memory at an address. -/
def byteOf (s : State) (a : Word) : Byte := Memory.read s.mem a.toNat

/-- A read at the address finds stored bytes: RAM or ROM outside the private peripheral bus. -/
abbrev readable (s : State) (a : Word) : Prop :=
  inPpb a = false ∧ (s.kindAt a = .ram ∨ s.kindAt a = .romIgnore ∨ s.kindAt a = .romBusError)

/-- A read at the address meets a bus error: nothing answers there. -/
abbrev unreadable (s : State) (a : Word) : Prop := inPpb a = false ∧ s.kindAt a = .absent

/-- A write at the address meets a bus error: nothing answers there, or a ROM that answers so. -/
abbrev unwritable (s : State) (a : Word) : Prop :=
  inPpb a = false ∧ (s.kindAt a = .absent ∨ s.kindAt a = .romBusError)

/-- A write at the address reaches RAM outside the private peripheral bus. -/
abbrev writable (s : State) (a : Word) : Prop := inPpb a = false ∧ s.kindAt a = .ram

/-- The k-th word address from a base on. -/
def nth (base : Word) (k : Nat) : Word := base + BitVec.ofNat 32 (4 * k)

/-- The address is one of the n bytes from a on. -/
abbrev within (a : Word) (n b : Nat) : Prop := a.toNat ≤ b ∧ b < a.toNat + n

/-- How many registers below Ri a list holds. -/
def rank (list : RegList) (i : LowReg) : Nat := ((List.range i.toNat).filter fun j => list.getLsbD j).length

/-- How many registers a list holds: BitCount (00_scope.md R9). -/
def bitCount (list : RegList) : Nat := ((List.range 8).filter fun j => list.getLsbD j).length

/-- The flags of x + y + c, on exact integers (40_instruction_conventions.md R190). -/
def addFlags (x y : Word) (c : Nat) : Flags :=
  let r := x + y + BitVec.ofNat 32 c
  { n := r.msb, z := decide (r = 0), c := decide (2 ^ 32 ≤ x.toNat + y.toNat + c),
    v := decide (r.toInt ≠ x.toInt + y.toInt + c) }

/-- The flags of x - y - b, on exact integers: C is set when nothing is borrowed (40_instruction_conventions.md
R190). -/
def subFlags (x y : Word) (b : Nat) : Flags :=
  let r := x - y - BitVec.ofNat 32 b
  { n := r.msb, z := decide (r = 0), c := decide (y.toNat + b ≤ x.toNat),
    v := decide (r.toInt ≠ x.toInt - y.toInt - b) }

/-- The state with a low register written, new flags, and the PC 2 bytes further: nothing else changes. -/
def wrote (s : State) (rd : LowReg) (v : Word) (f : Flags) : State :=
  { s with r := s.r.setIfInBounds rd.toNat v, flags := f, pc := s.pc + 2 }

/-- The load i completes: it answers exactly Rt written with v and the PC 2 bytes further. -/
def loads (i : Instr) (s : State) (rt : LowReg) (v : Word) : Prop := exec i s = .next (wrote s rt v s.flags)

/-- The store i completes: it writes the n low bytes of v at a, leaves every other byte of memory and every other
field alone, and moves the PC on by 2. -/
def stores (i : Instr) (s : State) (n : Nat) (a v : Word) : Prop :=
  ∃ t, exec i s = .next t ∧ t = { s with mem := t.mem, pc := s.pc + 2 } ∧
    (∀ k < n, Memory.read t.mem (a.toNat + k) = byteAt v k) ∧
    (∀ b, ¬ within a n b → Memory.read t.mem b = Memory.read s.mem b)

/-- Bytes outside the words from a base on are as before. -/
def sameOutside (s t : State) (base : Word) (n : Nat) : Prop :=
  ∀ b, (∀ k < n, ¬ within (nth base k) 4 b) → Memory.read t.mem b = Memory.read s.mem b

/-- The registers R8 to R12 are as before. -/
def sameHigh (s t : State) : Prop := ∀ n : Reg, 8 ≤ n.toNat → n.toNat ≤ 12 → t.x n = s.x n

/-- What entering the handler of exception n leaves, n's frame standing at fp in memory already, with LR at link: the
mode, the stack selection, the exception's bits, the PC and T from its vector, R4 to R11 and everything else as
before. R0 to R3, R12 and the flags are free (60_exceptions.md R414). -/
def handlerEntered (n : Nat) (link : Word) (s t : State) : Prop :=
  t.ipsr = BitVec.ofNat 6 n ∧ t.spsel = false ∧ t.lr = link ∧ t.run = .running ∧
  t.pc = halfAligned (wordAt t (vectorAddress n)) ∧ t.thumb = (wordAt t (vectorAddress n)).getLsbD 0 ∧
  t.nvic = { s.nvic with pending := clearBit s.nvic.pending n, active := setBit s.nvic.active n } ∧
  (∀ m : Reg, 4 ≤ m.toNat → m.toNat ≤ 11 → t.x m = s.x m) ∧
  t.primask = s.primask ∧ t.event = s.event ∧ t.scr = s.scr ∧ t.sysTick = s.sysTick ∧
  t.resetReq = s.resetReq ∧ t.platform = s.platform ∧ t.env = s.env ∧ t.future = s.future ∧
  t.answers = s.answers

/-- What taking exception n with return address ra leaves: the frame of eight words at the frame pointer, its
alignment flag, the stack pointer in use moved to it and the other one as before, every other byte of memory as before,
and the handler entered with the EXC_RETURN value of the mode left (60_exceptions.md R412 to R414). -/
def entered (n : Nat) (ra : Word) (s t : State) : Prop :=
  let fp := (s.sp - 32) &&& 0xFFFFFFFB#32
  (t.msp = if s.ipsr = 0 ∧ s.spsel = true then s.msp else fp) ∧
  (t.psp = if s.ipsr = 0 ∧ s.spsel = true then fp else s.psp) ∧
  wordAt t (nth fp 0) = s.lo 0 ∧ wordAt t (nth fp 1) = s.lo 1 ∧ wordAt t (nth fp 2) = s.lo 2 ∧
  wordAt t (nth fp 3) = s.lo 3 ∧ wordAt t (nth fp 4) = s.x 12 ∧ wordAt t (nth fp 5) = s.lr ∧
  wordAt t (nth fp 6) = ra ∧ wordAt t (nth fp 7) = s.stackedPsr (s.sp.getLsbD 2) ∧
  sameOutside s t fp 8 ∧
  handlerEntered n
    (if s.ipsr ≠ 0 then 0xFFFFFFF1#32 else if s.spsel = true then 0xFFFFFFFD#32 else 0xFFFFFFF9#32) s t

/-- An exception can be taken here without a fault of its own: both stacks are word-aligned, memory is canonical,
the frame lies in RAM, the vector can be read, and no reset cuts the entry short. -/
abbrev canEnter (n : Nat) (s : State) : Prop :=
  s.env.resetInEntry = none ∧ s.memoryCanonical ∧ s.stacksAligned ∧ n ∈ exceptionNumbers ∧
  (∀ k < 8, writable s (nth ((s.sp - 32) &&& 0xFFFFFFFB#32) k)) ∧ readable s (vectorAddress n)

/-- The instruction takes HardFault at once, its own address the return address. -/
def takesHardFault (i : Instr) (s : State) : Prop := ∃ t, exec i s = .next t ∧ entered 3 s.pc s t

/-- The instruction faults: it takes HardFault, its own address the return address, or at execution priority -1 or higher
only locks the processor up. -/
def faults (i : Instr) (s : State) : Prop :=
  (-1 < s.execPriority → canEnter 3 s → takesHardFault i s) ∧
  (s.execPriority ≤ -1 → exec i s = .next { s with run := .lockup })

/-- The loads: each form with its address, its width in bytes and whether it extends the sign. -/
def loadForms (s : State) (rt rn rm : LowReg) (imm5 : BitVec 5) (imm8 : BitVec 8) : List (Instr × Word × Nat × Bool) :=
  [(.ldrReg rt rn rm, s.addrReg rn rm, 4, false), (.ldrImm rt rn imm5, s.addrImm rn imm5 4, 4, false),
    (.ldrSp rt imm8, s.addrSp imm8, 4, false), (.ldrLit rt imm8, s.addrLit imm8, 4, false),
    (.ldrhReg rt rn rm, s.addrReg rn rm, 2, false), (.ldrhImm rt rn imm5, s.addrImm rn imm5 2, 2, false),
    (.ldrshReg rt rn rm, s.addrReg rn rm, 2, true), (.ldrbReg rt rn rm, s.addrReg rn rm, 1, false),
    (.ldrbImm rt rn imm5, s.addrImm rn imm5 1, 1, false), (.ldrsbReg rt rn rm, s.addrReg rn rm, 1, true)]

/-- The stores: each form with its address and its width in bytes. -/
def storeForms (s : State) (rt rn rm : LowReg) (imm5 : BitVec 5) (imm8 : BitVec 8) : List (Instr × Word × Nat) :=
  [(.strReg rt rn rm, s.addrReg rn rm, 4), (.strImm rt rn imm5, s.addrImm rn imm5 4, 4),
    (.strSp rt imm8, s.addrSp imm8, 4), (.strhReg rt rn rm, s.addrReg rn rm, 2),
    (.strhImm rt rn imm5, s.addrImm rn imm5 2, 2), (.strbReg rt rn rm, s.addrReg rn rm, 1),
    (.strbImm rt rn imm5, s.addrImm rn imm5 1, 1)]

/-- The low n bytes of a word, as a signed or an unsigned number (20_memory.md R106). -/
def extended (n : Nat) (signed : Bool) (v : Word) : Word :=
  if signed then (v.setWidth (8 * n)).signExtend 32 else (v.setWidth (8 * n)).setWidth 32

/-- POP of a list has loaded each listed register from its place above the stack pointer, and no other register. -/
def popped (s u : State) (list : RegList) : Prop :=
  sameHigh s u ∧ ∀ i : LowReg, u.lo i = if list.getLsbD i.toNat then wordAt s (nth s.sp (rank list i)) else s.lo i

/-- The instruction is an exception return with this EXC_RETURN value, in Handler mode: a BX to it, or an undisturbed POP
that loads it to the PC. u is the state the return starts from: of a POP, with the registers and the stack pointer
written (60_exceptions.md R415, R417). -/
def returnsBy (i : Instr) (s : State) (addr : Word) (u : State) : Prop :=
  s.ipsr ≠ 0 ∧ 0xF0000000 ≤ addr.toNat ∧
  ((∃ rm : Reg, i = .bx rm sbBranch ∧ rm ≠ 13 ∧ rm ≠ 15 ∧ s.x rm = addr ∧ u = s) ∨
   (∃ list : RegList, i = .pop true list ∧ s.undisturbed ∧ s.stacksAligned ∧
      (∀ k < bitCount list + 1, readable s (nth s.sp k)) ∧ wordAt s (nth s.sp (bitCount list)) = addr ∧
      u = { s with r := u.r, msp := nth s.sp (bitCount list + 1) } ∧ popped s u list))

/-- The EXC_RETURN value is one of the three, and agrees with whether another exception is active (60_exceptions.md
R416). -/
abbrev returnAgrees (s : State) (addr : Word) : Prop :=
  (addr = 0xFFFFFFF1#32 ∧ s.othersActive = true) ∨
  ((addr = 0xFFFFFFF9#32 ∨ addr = 0xFFFFFFFD#32) ∧ s.othersActive = false)

/-- Where the frame an EXC_RETURN value names starts: at PSP for 0xFFFFFFFD, else at MSP (60_exceptions.md R417). -/
def frameOf (s : State) (addr : Word) : Word := if addr = 0xFFFFFFFD#32 then s.psp else s.msp

/-- The refusals that an encoding alone earns (30_encoding.md R161). -/
def encodingRefusals : List Refusal :=
  [.shouldBeBits, .emptyRegisterList, .stmBaseNotLowest, .branchSpOrPc, .specialSpOrPc, .unknownSysm, .addPcPc,
    .cmpHighOperands]

/-- The bytes of memory at the PC and after it, as many as the longest instruction has. -/
def codeAt (s : State) : List Byte :=
  [Memory.read s.mem s.pc.toNat, Memory.read s.mem (s.pc.toNat + 1), Memory.read s.mem (s.pc.toNat + 2),
    Memory.read s.mem (s.pc.toNat + 3)]

/-- The processor runs in this step: no reset is asserted, it is running, and once the agents have acted no exception
is to be taken. -/
abbrev runs (s : State) : Prop :=
  s.nextEnv.env.reset = false ∧ s.run = .running ∧ s.nextEnv.agents.preempting = none

/-- A name of the PSR or a mask register, and what MRS reads of it: the stated bits of the result, and which bits are
stated (45_miscellaneous.md R379). -/
def stated (s : State) (sysm : Nat) : Word × Word :=
  let flags : Word := bitWord s.flags.n 31 ||| bitWord s.flags.z 30 ||| bitWord s.flags.c 29 ||| bitWord s.flags.v 28
  let number : Word := s.ipsr.setWidth 32
  match sysm with
  | 0 => (flags, 0xF0000000#32)
  | 1 => (flags ||| number, 0xF000003F#32)
  | 2 => (flags, 0xF1000000#32)
  | 3 => (flags ||| number, 0xF100003F#32)
  | 5 => (number, 0x0000003F#32)
  | 6 => (0, 0xFFFFFFFF#32)
  | 7 => (number, 0x0100003F#32)
  | 8 => (s.msp, 0xFFFFFFFF#32)
  | 9 => (s.psp, 0xFFFFFFFF#32)
  | 16 => (bitWord s.primask 0, 0x00000001#32)
  | _ => (bitWord (s.spsel && decide (s.ipsr = 0)) 1, 0x00000002#32)

/-- A general register MRS writes: R0 to R12 or LR, with the PC 4 bytes further and one free value drawn. -/
def mrsWrote (s t : State) (rd : Reg) : Prop :=
  t = { s with r := t.r, lr := t.lr, pc := s.pc + 4, free := s.free + 1 } ∧
  (∀ m : Reg, m ≠ rd → m ≠ 15 → t.x m = s.x m)

/-- A 16-bit instruction's encoding: the halfword decodes to it. -/
def coded (w : Nat) (i : Instr) : Prop := decodeTableWord 16 w = some i

/-- The instruction answers the old state with only the PC moved. -/
def onlyMoves (i : Instr) (s : State) (len : Nat) : Prop :=
  exec i s = .next { s with pc := s.pc + BitVec.ofNat 32 len }

end Sys2Proof.Claims

open Sys2Proof Sys2Proof.Machine Sys2Proof.Claims

/-! ### Encoding and decoding -/

/-- Decoding the bytes of any instruction that has an encoding gives it back, and the bytes after it.
Should-be bits are a part of the instruction by the model's choice (notes/assumptions/21.md). -/
def Obligations.DecodeOfEncodedBytes : Prop :=
  ∀ (i : Instr) (rest : List Byte), i.encodable = true → decode (encodeBytes i ++ rest) = .ok (i, rest)

/-- Bytes that decode are the encoding of what they decode to, which has an encoding.
Should-be bits are a part of the instruction by the model's choice (notes/assumptions/21.md). -/
def Obligations.EncodeOfDecodedBytes : Prop :=
  ∀ (bytes rest : List Byte) (i : Instr), decode bytes = .ok (i, rest) →
    i.encodable = true ∧ bytes = encodeBytes i ++ rest

/-- A few words of the manual's examples decode to the instructions they stand for. -/
def Obligations.ExampleWordsDecode : Prop :=
  decodeTableWord 16 0x126F = some (.asrsImm 7 5 9) ∧ decodeTableWord 16 0x4159 = some (.adcs 1 3) ∧
  decodeTableWord 16 0x46E8 = some (.movHigh 8 13) ∧ decodeTableWord 16 0x5ED1 = some (.ldrshReg 1 2 3) ∧
  decodeTableWord 16 0xB504 = some (.push true 0x04) ∧ decodeTableWord 16 0xD0F6 = some (.bCond .eq 0xF6) ∧
  decodeTableWord 32 0xF000F87E = some (.bl 0x00007E) ∧ decodeTableWord 32 0xF3818814 = some (.msr 1 20 sbMsr)

/-- An encoding that is unpredictable is refused as such in every state, and no other instruction is.
By the model's choice should-be bits are a part of the instruction (notes/assumptions/21.md), and the unallocated hints
and the barriers with an option other than 1111 run (24.md, 25.md). -/
def Obligations.UnpredictableEncodingsRefused : Prop :=
  ∀ (i : Instr) (s : State), i.encodable = true →
    (i.wellFormed = false ↔ ∃ r ∈ encodingRefusals, exec i s = .refused r)

/-! ### A step -/

/-- A step of a running processor with nothing to preempt it, whose code lies in RAM or ROM that may be executed (the
second halfword too, where the instruction has one), executes the instruction that the bytes at the PC decode to, on
the state the other agents leave.
The environment's schedule, and that the agents act before the processor, are the model's choice
(notes/assumptions/9.md, 13.md). -/
def Obligations.StepRunsTheDecodedInstruction : Prop :=
  ∀ (s : State) (i : Instr) (rest : List Byte), runs s → s.thumb = true → s.pcAligned →
    executeNever s.pc = false → readable s s.pc → decode (codeAt s) = .ok (i, rest) →
    (rest = [] → executeNever (s.pc + 2) = false ∧ readable s (s.pc + 2)) → step s = exec i s.nextEnv.agents

/-- An instruction that cannot be fetched or is undefined takes HardFault, its own address the return address: with T
clear; with its first halfword execute-never or at an absent address; with a second halfword that is so; or where the
bytes are no instruction.
The environment's schedule, and that the agents act before the processor, are the model's choice
(notes/assumptions/9.md, 13.md). -/
def Obligations.FetchFaultsTakeHardFault : Prop :=
  ∀ s : State, runs s → -1 < s.nextEnv.agents.execPriority → canEnter 3 s.nextEnv.agents → s.pcAligned →
    let unfetchable := fun a : Word => executeNever a = true ∨ (inPpb a = false ∧ s.kindAt a = .absent)
    let fetchable := fun a : Word => executeNever a = false ∧ readable s a
    (s.thumb = false ∨ (s.thumb = true ∧ unfetchable s.pc) ∨
      (s.thumb = true ∧ fetchable s.pc ∧ isWide (halfAt s s.pc).toNat = true ∧ unfetchable (s.pc + 2)) ∨
      (s.thumb = true ∧ fetchable s.pc ∧ (isWide (halfAt s s.pc).toNat = true → fetchable (s.pc + 2)) ∧
        decode (codeAt s) = .error .undefined)) →
    ∃ t, step s = .next t ∧ entered 3 s.pc s.nextEnv.agents t

/-! ### Arithmetic -/

/-- The adding instructions write the sum and all four flags of the exact addition; CMN writes the flags only. Each
with its encoding. -/
def Obligations.AdditionsWriteSumAndFlags : Prop :=
  ∀ (s : State) (rd rn rm : LowReg) (imm3 : BitVec 3) (imm8 : BitVec 8),
    exec (.addsReg rd rn rm) s = .next (wrote s rd (s.lo rn + s.lo rm) (addFlags (s.lo rn) (s.lo rm) 0)) ∧
    coded (0x1800 + rm.toNat * 64 + rn.toNat * 8 + rd.toNat) (.addsReg rd rn rm) ∧
    exec (.addsImm3 rd rn imm3) s =
      .next (wrote s rd (s.lo rn + imm3.setWidth 32) (addFlags (s.lo rn) (imm3.setWidth 32) 0)) ∧
    coded (0x1C00 + imm3.toNat * 64 + rn.toNat * 8 + rd.toNat) (.addsImm3 rd rn imm3) ∧
    exec (.addsImm8 rd imm8) s =
      .next (wrote s rd (s.lo rd + imm8.setWidth 32) (addFlags (s.lo rd) (imm8.setWidth 32) 0)) ∧
    coded (0x3000 + rd.toNat * 256 + imm8.toNat) (.addsImm8 rd imm8) ∧
    exec (.adcs rd rm) s =
      .next (wrote s rd (s.lo rd + s.lo rm + BitVec.ofNat 32 s.flags.c.toNat)
        (addFlags (s.lo rd) (s.lo rm) s.flags.c.toNat)) ∧
    coded (0x4140 + rm.toNat * 8 + rd.toNat) (.adcs rd rm) ∧
    exec (.cmn rn rm) s = .next { s with flags := addFlags (s.lo rn) (s.lo rm) 0, pc := s.pc + 2 } ∧
    coded (0x42C0 + rm.toNat * 8 + rn.toNat) (.cmn rn rm)

/-- The subtracting instructions write the difference and all four flags of the exact subtraction, C meaning no
borrow; SBCS subtracts one more when C is clear. Each with its encoding. -/
def Obligations.SubtractionsWriteDifferenceAndFlags : Prop :=
  ∀ (s : State) (rd rn rm : LowReg) (imm3 : BitVec 3) (imm8 : BitVec 8),
    exec (.subsReg rd rn rm) s = .next (wrote s rd (s.lo rn - s.lo rm) (subFlags (s.lo rn) (s.lo rm) 0)) ∧
    coded (0x1A00 + rm.toNat * 64 + rn.toNat * 8 + rd.toNat) (.subsReg rd rn rm) ∧
    exec (.subsImm3 rd rn imm3) s =
      .next (wrote s rd (s.lo rn - imm3.setWidth 32) (subFlags (s.lo rn) (imm3.setWidth 32) 0)) ∧
    coded (0x1E00 + imm3.toNat * 64 + rn.toNat * 8 + rd.toNat) (.subsImm3 rd rn imm3) ∧
    exec (.subsImm8 rd imm8) s =
      .next (wrote s rd (s.lo rd - imm8.setWidth 32) (subFlags (s.lo rd) (imm8.setWidth 32) 0)) ∧
    coded (0x3800 + rd.toNat * 256 + imm8.toNat) (.subsImm8 rd imm8) ∧
    exec (.rsbs rd rn) s = .next (wrote s rd (-(s.lo rn)) (subFlags 0 (s.lo rn) 0)) ∧
    coded (0x4240 + rn.toNat * 8 + rd.toNat) (.rsbs rd rn) ∧
    exec (.sbcs rd rm) s =
      .next (wrote s rd (s.lo rd - s.lo rm - BitVec.ofNat 32 (1 - s.flags.c.toNat))
        (subFlags (s.lo rd) (s.lo rm) (1 - s.flags.c.toNat))) ∧
    coded (0x4180 + rm.toNat * 8 + rd.toNat) (.sbcs rd rm)

/-- The comparisons write the flags of the subtraction and no register; CMP in the high-register encoding is refused
with both registers low or with PC. Each with its encoding. -/
def Obligations.ComparisonsWriteFlagsOnly : Prop :=
  ∀ (s : State) (rn rm : LowReg) (hn hm : Reg) (imm8 : BitVec 8),
    exec (.cmpReg rn rm) s = .next { s with flags := subFlags (s.lo rn) (s.lo rm) 0, pc := s.pc + 2 } ∧
    coded (0x4280 + rm.toNat * 8 + rn.toNat) (.cmpReg rn rm) ∧
    exec (.cmpImm rn imm8) s =
      .next { s with flags := subFlags (s.lo rn) (imm8.setWidth 32) 0, pc := s.pc + 2 } ∧
    coded (0x2800 + rn.toNat * 256 + imm8.toNat) (.cmpImm rn imm8) ∧
    ((8 ≤ hn.toNat ∨ 8 ≤ hm.toNat) → hn ≠ 15 → hm ≠ 15 →
      exec (.cmpHigh hn hm) s = .next { s with flags := subFlags (s.x hn) (s.x hm) 0, pc := s.pc + 2 }) ∧
    ((hn.toNat < 8 ∧ hm.toNat < 8) ∨ hn = 15 ∨ hm = 15 → exec (.cmpHigh hn hm) s = .refused .cmpHighOperands) ∧
    coded (0x4500 + hn.toNat / 8 * 128 + hm.toNat * 8 + hn.toNat % 8) (.cmpHigh hn hm)

/-- The logical instructions, MULS (the low word of the product) and the flag-setting moves write their result, N and
Z, and keep C and V; TST writes the flags only. Each with its encoding. -/
def Obligations.ResultsSetNZ : Prop :=
  ∀ (s : State) (rd rm : LowReg) (imm8 : BitVec 8),
    let nz := fun v : Word => { s.flags with n := v.msb, z := decide (v = 0) }
    let put := fun v : Word => wrote s rd v (nz v)
    exec (.ands rd rm) s = .next (put (s.lo rd &&& s.lo rm)) ∧
    coded (0x4000 + rm.toNat * 8 + rd.toNat) (.ands rd rm) ∧
    exec (.orrs rd rm) s = .next (put (s.lo rd ||| s.lo rm)) ∧
    coded (0x4300 + rm.toNat * 8 + rd.toNat) (.orrs rd rm) ∧
    exec (.eors rd rm) s = .next (put (s.lo rd ^^^ s.lo rm)) ∧
    coded (0x4040 + rm.toNat * 8 + rd.toNat) (.eors rd rm) ∧
    exec (.bics rd rm) s = .next (put (s.lo rd &&& ~~~(s.lo rm))) ∧
    coded (0x4380 + rm.toNat * 8 + rd.toNat) (.bics rd rm) ∧
    exec (.mvns rd rm) s = .next (put (~~~(s.lo rm))) ∧
    coded (0x43C0 + rm.toNat * 8 + rd.toNat) (.mvns rd rm) ∧
    exec (.muls rd rm) s = .next (put (BitVec.ofNat 32 ((s.lo rm).toNat * (s.lo rd).toNat))) ∧
    coded (0x4340 + rm.toNat * 8 + rd.toNat) (.muls rd rm) ∧
    exec (.movsImm rd imm8) s = .next (put (imm8.setWidth 32)) ∧
    coded (0x2000 + rd.toNat * 256 + imm8.toNat) (.movsImm rd imm8) ∧
    exec (.tst rd rm) s = .next { s with flags := nz (s.lo rd &&& s.lo rm), pc := s.pc + 2 } ∧
    coded (0x4200 + rm.toNat * 8 + rd.toNat) (.tst rd rm)

/-! ### Shifts -/

/-- ASR_C: the result is the signed value divided by 2^n rounding down, the carry the last bit shifted out; from 32
on every bit and the carry are the sign. LSR_C: the result is the unsigned value divided by 2^n, the carry the last bit
shifted out; at 32 the result is 0 and the carry bit 31, from 33 on both are 0. -/
def Obligations.RightShiftFunctions : Prop :=
  ∀ (v : Word) (n : Nat) (cin : Bool),
    (n = 0 → asrC v n cin = ⟨v, cin⟩ ∧ lsrC v n cin = ⟨v, cin⟩) ∧
    (1 ≤ n → n ≤ 31 →
      (asrC v n cin).value.toInt = v.toInt / 2 ^ n ∧ (asrC v n cin).carry = v.getLsbD (n - 1) ∧
      (lsrC v n cin).value.toNat = v.toNat / 2 ^ n ∧ (lsrC v n cin).carry = v.getLsbD (n - 1)) ∧
    (32 ≤ n → asrC v n cin = ⟨if v.toInt < 0 then 0xFFFFFFFF#32 else 0#32, v.getLsbD 31⟩) ∧
    (n = 32 → lsrC v n cin = ⟨0, v.getLsbD 31⟩) ∧
    (33 ≤ n → lsrC v n cin = ⟨0, false⟩)

/-- LSL_C: the result is the value times 2^n modulo 2^32, the carry the last bit shifted out; at 32 the result is 0
and the carry bit 0, from 33 on both are 0. ROR_C: bit i of the result is bit i + n modulo 32 of the value; for n other
than 0 the carry is bit 31 of the result, so that n and n - 32 agree. -/
def Obligations.LeftShiftAndRotateFunctions : Prop :=
  ∀ (v : Word) (n : Nat) (cin : Bool),
    (n = 0 → lslC v n cin = ⟨v, cin⟩ ∧ rorC v n cin = ⟨v, cin⟩) ∧
    (1 ≤ n → n ≤ 31 →
      (lslC v n cin).value.toNat = v.toNat * 2 ^ n % 2 ^ 32 ∧ (lslC v n cin).carry = v.getLsbD (32 - n)) ∧
    (n = 32 → lslC v n cin = ⟨0, v.getLsbD 0⟩) ∧
    (33 ≤ n → lslC v n cin = ⟨0, false⟩) ∧
    (1 ≤ n → (∀ i < 32, (rorC v n cin).value.getLsbD i = v.getLsbD ((i + n) % 32)) ∧
      (rorC v n cin).carry = (rorC v n cin).value.getLsbD 31) ∧
    (33 ≤ n → rorC v n cin = rorC v (n - 32) cin)

/-- The shifts and the rotate write the shifted value, N, Z and the carry, and keep V. An immediate 0 of LSRS or ASRS
stands for 32, a register form takes the low byte of Rs, and LSLS by 0 is MOVS, which keeps C. Each with its
encoding. -/
def Obligations.ShiftsWriteResultNZC : Prop :=
  ∀ (s : State) (rd rm : LowReg) (imm5 : BitVec 5),
    let put := fun r : Shifted =>
      wrote s rd r.value { s.flags with n := r.value.msb, z := decide (r.value = 0), c := r.carry }
    let n := (s.lo rm).toNat % 256
    let k := if imm5 = 0 then 32 else imm5.toNat
    exec (.lslsImm rd rm imm5) s = .next (put (lslC (s.lo rm) imm5.toNat s.flags.c)) ∧
    coded (imm5.toNat * 64 + rm.toNat * 8 + rd.toNat) (.lslsImm rd rm imm5) ∧
    exec (.lsrsImm rd rm imm5) s = .next (put (lsrC (s.lo rm) k s.flags.c)) ∧
    coded (0x0800 + imm5.toNat * 64 + rm.toNat * 8 + rd.toNat) (.lsrsImm rd rm imm5) ∧
    exec (.asrsImm rd rm imm5) s = .next (put (asrC (s.lo rm) k s.flags.c)) ∧
    coded (0x1000 + imm5.toNat * 64 + rm.toNat * 8 + rd.toNat) (.asrsImm rd rm imm5) ∧
    exec (.lslsReg rd rm) s = .next (put (lslC (s.lo rd) n s.flags.c)) ∧
    coded (0x4080 + rm.toNat * 8 + rd.toNat) (.lslsReg rd rm) ∧
    exec (.lsrsReg rd rm) s = .next (put (lsrC (s.lo rd) n s.flags.c)) ∧
    coded (0x40C0 + rm.toNat * 8 + rd.toNat) (.lsrsReg rd rm) ∧
    exec (.asrsReg rd rm) s = .next (put (asrC (s.lo rd) n s.flags.c)) ∧
    coded (0x4100 + rm.toNat * 8 + rd.toNat) (.asrsReg rd rm) ∧
    exec (.rorsReg rd rm) s = .next (put (rorC (s.lo rd) n s.flags.c)) ∧
    coded (0x41C0 + rm.toNat * 8 + rd.toNat) (.rorsReg rd rm) ∧
    exec (.lslsImm rd rm 0) s =
      .next (wrote s rd (s.lo rm) { s.flags with n := (s.lo rm).msb, z := decide (s.lo rm = 0) })

/-! ### Extensions and byte reversals -/

/-- The extensions write the low byte or halfword as a signed or an unsigned number, and no flag. Each with its
encoding. -/
def Obligations.ExtensionsWriteTheNumber : Prop :=
  ∀ (s : State) (rd rm : LowReg),
    exec (.sxtb rd rm) s =
      .next (wrote s rd (BitVec.ofInt 32 (BitVec.ofNat 8 (s.lo rm).toNat).toInt) s.flags) ∧
    coded (0xB240 + rm.toNat * 8 + rd.toNat) (.sxtb rd rm) ∧
    exec (.sxth rd rm) s =
      .next (wrote s rd (BitVec.ofInt 32 (BitVec.ofNat 16 (s.lo rm).toNat).toInt) s.flags) ∧
    coded (0xB200 + rm.toNat * 8 + rd.toNat) (.sxth rd rm) ∧
    exec (.uxtb rd rm) s = .next (wrote s rd (BitVec.ofNat 32 ((s.lo rm).toNat % 2 ^ 8)) s.flags) ∧
    coded (0xB2C0 + rm.toNat * 8 + rd.toNat) (.uxtb rd rm) ∧
    exec (.uxth rd rm) s = .next (wrote s rd (BitVec.ofNat 32 ((s.lo rm).toNat % 2 ^ 16)) s.flags) ∧
    coded (0xB280 + rm.toNat * 8 + rd.toNat) (.uxth rd rm)

/-- REV, REV16 and REVSH permute the bytes of the source as their rules say, and write no flag. Each with its
encoding. -/
def Obligations.ReversalsPermuteBytes : Prop :=
  ∀ (s : State) (rd rm : LowReg), ∃ a b c : Word,
    exec (.rev rd rm) s = .next (wrote s rd a s.flags) ∧
    coded (0xBA00 + rm.toNat * 8 + rd.toNat) (.rev rd rm) ∧
    (∀ k < 4, byteAt a k = byteAt (s.lo rm) (3 - k)) ∧
    exec (.rev16 rd rm) s = .next (wrote s rd b s.flags) ∧
    coded (0xBA40 + rm.toNat * 8 + rd.toNat) (.rev16 rd rm) ∧
    byteAt b 0 = byteAt (s.lo rm) 1 ∧ byteAt b 1 = byteAt (s.lo rm) 0 ∧
    byteAt b 2 = byteAt (s.lo rm) 3 ∧ byteAt b 3 = byteAt (s.lo rm) 2 ∧
    exec (.revsh rd rm) s = .next (wrote s rd c s.flags) ∧
    coded (0xBAC0 + rm.toNat * 8 + rd.toNat) (.revsh rd rm) ∧
    byteAt c 0 = byteAt (s.lo rm) 1 ∧ byteAt c 1 = byteAt (s.lo rm) 0 ∧
    (∀ i, 16 ≤ i → i < 32 → c.getLsbD i = (s.lo rm).getLsbD 7)

/-! ### Addresses, moves on any register, and the stack pointer -/

/-- ADR and ADD Rd, SP write the address: the PC operand rounded down to a word, or the current stack pointer, plus four
times the immediate. ADD SP and SUB SP move the current stack pointer by four times the immediate and leave the other
one alone. No flag changes. Each with its encoding. -/
def Obligations.AddressesAndStackPointerArithmetic : Prop :=
  ∀ (s : State) (rd : LowReg) (imm8 : BitVec 8) (imm7 : BitVec 7),
    let up := s.sp + BitVec.ofNat 32 (imm7.toNat * 4)
    let down := s.sp - BitVec.ofNat 32 (imm7.toNat * 4)
    let put := fun v : Word =>
      if s.ipsr = 0 ∧ s.spsel = true then { s with psp := v, pc := s.pc + 2 } else { s with msp := v, pc := s.pc + 2 }
    exec (.adr rd imm8) s =
      .next (wrote s rd (BitVec.ofNat 32 ((s.pc + 4).toNat / 4 * 4 + imm8.toNat * 4)) s.flags) ∧
    coded (0xA000 + rd.toNat * 256 + imm8.toNat) (.adr rd imm8) ∧
    exec (.addSpRd rd imm8) s = .next (wrote s rd (s.sp + BitVec.ofNat 32 (imm8.toNat * 4)) s.flags) ∧
    coded (0xA800 + rd.toNat * 256 + imm8.toNat) (.addSpRd rd imm8) ∧
    (s.stacksAligned → exec (.addSpImm imm7) s = .next (put up) ∧ exec (.subSpImm imm7) s = .next (put down)) ∧
    coded (0xB000 + imm7.toNat) (.addSpImm imm7) ∧ coded (0xB080 + imm7.toNat) (.subSpImm imm7)

/-- MOV and ADD on any register other than the PC write only that register, no flag; SP takes the value with bits
[1:0] clear. -/
def Obligations.HighMovesWriteOneRegister : Prop :=
  ∀ (s : State) (rd rm : Reg), rd ≠ 15 →
    let v := if rd = 13 then wordAligned (s.x rm) else s.x rm
    let w := if rd = 13 then wordAligned (s.x rd + s.x rm) else s.x rd + s.x rm
    (∃ t, exec (.movHigh rd rm) s = .next t ∧ t.x rd = v ∧ (∀ m : Reg, m ≠ rd → m ≠ 15 → t.x m = s.x m) ∧
      t = { s with r := t.r, msp := t.msp, psp := t.psp, lr := t.lr, pc := s.pc + 2 } ∧
      (if s.usesPsp then t.msp = s.msp else t.psp = s.psp)) ∧
    (∃ t, exec (.addHigh rd rm) s = .next t ∧ t.x rd = w ∧ (∀ m : Reg, m ≠ rd → m ≠ 15 → t.x m = s.x m) ∧
      t = { s with r := t.r, msp := t.msp, psp := t.psp, lr := t.lr, pc := s.pc + 2 } ∧
      (if s.usesPsp then t.msp = s.msp else t.psp = s.psp))

/-! ### Branches -/

/-- B and a B<cond> whose condition passes branch by twice their signed field from the PC operand, a B<cond> whose
condition fails moves on, and BL links besides; from an even PC nothing is lost and nothing else changes. -/
def Obligations.BranchesReachTheirTarget : Prop :=
  ∀ (s : State) (imm11 : BitVec 11) (imm8 : BitVec 8) (off : BitVec 24) (cond : Cond), s.pcAligned →
    exec (.b imm11) s = .next { s with pc := s.pc + 4 + BitVec.ofInt 32 (2 * imm11.toInt) } ∧
    (s.flags.passes cond = true →
      exec (.bCond cond imm8) s = .next { s with pc := s.pc + 4 + BitVec.ofInt 32 (2 * imm8.toInt) }) ∧
    (s.flags.passes cond = false → exec (.bCond cond imm8) s = .next { s with pc := s.pc + 2 }) ∧
    exec (.bl off) s =
      .next { s with pc := s.pc + 4 + BitVec.ofInt 32 (2 * off.toInt), lr := s.pc + 4 + 1 }

/-- After a comparison of two registers the signed and the unsigned conditions order them as numbers, and MI, PL, VS and
VC test the sign of the difference and whether it left the signed range. -/
def Obligations.ComparisonThenConditionOrders : Prop :=
  ∀ (s : State) (rn rm : LowReg), ∃ t, exec (.cmpReg rn rm) s = .next t ∧
    let x := s.lo rn
    let y := s.lo rm
    (t.flags.passes .eq ↔ x = y) ∧ (t.flags.passes .ne ↔ x ≠ y) ∧
    (t.flags.passes .cs ↔ y.toNat ≤ x.toNat) ∧ (t.flags.passes .cc ↔ x.toNat < y.toNat) ∧
    (t.flags.passes .hi ↔ y.toNat < x.toNat) ∧ (t.flags.passes .ls ↔ x.toNat ≤ y.toNat) ∧
    (t.flags.passes .ge ↔ y.toInt ≤ x.toInt) ∧ (t.flags.passes .lt ↔ x.toInt < y.toInt) ∧
    (t.flags.passes .gt ↔ y.toInt < x.toInt) ∧ (t.flags.passes .le ↔ x.toInt ≤ y.toInt) ∧
    (t.flags.passes .mi ↔ (x - y).toInt < 0) ∧ (t.flags.passes .pl ↔ 0 ≤ (x - y).toInt) ∧
    (t.flags.passes .vs ↔ x.toInt - y.toInt < -2 ^ 31 ∨ 2 ^ 31 ≤ x.toInt - y.toInt) ∧
    (t.flags.passes .vc ↔ -2 ^ 31 ≤ x.toInt - y.toInt ∧ x.toInt - y.toInt < 2 ^ 31)

/-- MOV PC and ADD PC branch to the value with bit 0 discarded, in either mode, and T stays. BX, where it is no
exception return, and BLX, where it is defined, branch to the value with bit 0 cleared, which goes to T; BLX links
besides. Nothing else changes. -/
def Obligations.RegisterBranchesReachTheirTarget : Prop :=
  ∀ (s : State) (rm : Reg),
    exec (.movHigh 15 rm) s = .next { s with pc := BitVec.ofNat 32 ((s.x rm).toNat / 2 * 2) } ∧
    (rm ≠ 15 →
      exec (.addHigh 15 rm) s = .next { s with pc := BitVec.ofNat 32 ((s.pc + 4 + s.x rm).toNat / 2 * 2) }) ∧
    (rm ≠ 13 → rm ≠ 15 → (s.ipsr = 0 ∨ (s.x rm).toNat < 0xF0000000) →
      exec (.bx rm sbBranch) s =
        .next { s with pc := BitVec.ofNat 32 ((s.x rm).toNat / 2 * 2), thumb := (s.x rm).getLsbD 0 } ∧
      (s.pcAligned → exec (.blx rm sbBranch) s =
        .next { s with pc := BitVec.ofNat 32 ((s.x rm).toNat / 2 * 2), thumb := (s.x rm).getLsbD 0,
                       lr := s.pc + 2 + 1 }))

/-! ### Loads and stores -/

/-- Every load, at an aligned address of RAM or ROM, writes the little-endian value found there, extended as its name
says, and nothing else but the PC. The addresses of the loads and stores are sums modulo 2^32 of the base and the scaled
offset; a literal's base is the PC operand rounded down to a word. -/
def Obligations.LoadsReadLittleEndian : Prop :=
  ∀ (s : State) (rt rn rm : LowReg) (imm5 : BitVec 5) (imm8 : BitVec 8) (scale : Nat),
    (s.addrReg rn rm).toNat = ((s.lo rn).toNat + (s.lo rm).toNat) % 2 ^ 32 ∧
    (s.addrImm rn imm5 scale).toNat = ((s.lo rn).toNat + imm5.toNat * scale) % 2 ^ 32 ∧
    (s.addrSp imm8).toNat = (s.sp.toNat + imm8.toNat * 4) % 2 ^ 32 ∧
    (s.addrLit imm8).toNat = ((s.pc.toNat + 4) % 2 ^ 32 / 4 * 4 + imm8.toNat * 4) % 2 ^ 32 ∧
    (∀ i a, (i, a) ∈ [(Instr.ldrReg rt rn rm, s.addrReg rn rm), (Instr.ldrImm rt rn imm5, s.addrImm rn imm5 4),
        (Instr.ldrSp rt imm8, s.addrSp imm8), (Instr.ldrLit rt imm8, s.addrLit imm8)] →
      a.toNat % 4 = 0 → readable s a → loads i s rt (wordAt s a)) ∧
    (∀ i a, (i, a) ∈ [(Instr.ldrhReg rt rn rm, s.addrReg rn rm), (Instr.ldrhImm rt rn imm5, s.addrImm rn imm5 2)] →
      a.toNat % 2 = 0 → readable s a → loads i s rt ((halfAt s a).setWidth 32)) ∧
    (∀ i a, (i, a) ∈ [(Instr.ldrbReg rt rn rm, s.addrReg rn rm), (Instr.ldrbImm rt rn imm5, s.addrImm rn imm5 1)] →
      readable s a → loads i s rt ((byteOf s a).setWidth 32)) ∧
    ((s.addrReg rn rm).toNat % 2 = 0 → readable s (s.addrReg rn rm) →
      loads (.ldrshReg rt rn rm) s rt ((halfAt s (s.addrReg rn rm)).signExtend 32)) ∧
    (readable s (s.addrReg rn rm) →
      loads (.ldrsbReg rt rn rm) s rt ((byteOf s (s.addrReg rn rm)).signExtend 32))

/-- Every store, at an aligned address of RAM, writes its bytes little-endian there, no other byte, and no
register. -/
def Obligations.StoresWriteLittleEndian : Prop :=
  ∀ (s : State) (rt rn rm : LowReg) (imm5 : BitVec 5) (imm8 : BitVec 8), s.memoryCanonical →
    (∀ i a, (i, a) ∈ [(Instr.strReg rt rn rm, s.addrReg rn rm), (Instr.strImm rt rn imm5, s.addrImm rn imm5 4),
        (Instr.strSp rt imm8, s.addrSp imm8)] →
      a.toNat % 4 = 0 → writable s a → stores i s 4 a (s.lo rt)) ∧
    (∀ i a, (i, a) ∈ [(Instr.strhReg rt rn rm, s.addrReg rn rm), (Instr.strhImm rt rn imm5, s.addrImm rn imm5 2)] →
      a.toNat % 2 = 0 → writable s a → stores i s 2 a (s.lo rt)) ∧
    (∀ i a, (i, a) ∈ [(Instr.strbReg rt rn rm, s.addrReg rn rm), (Instr.strbImm rt rn imm5, s.addrImm rn imm5 1)] →
      writable s a → stores i s 1 a (s.lo rt))

/-- A load or store at an unaligned address or where the access meets a bus error (nothing answers there or, for a
store, a ROM that answers so) faults: it takes HardFault with its own address as return address, or locks the processor
up, and does nothing else. So does an undisturbed LDM or STM from an unaligned base. -/
def Obligations.BadAddressesTakeHardFault : Prop :=
  ∀ (s : State) (rt rn rm : LowReg) (imm5 : BitVec 5) (imm8 : BitVec 8) (list : RegList) (i : Instr) (a : Word) (n : Nat),
    (list ≠ 0 → s.undisturbed → (s.lo rn).toNat % 4 ≠ 0 →
      faults (.ldm rn list) s ∧ (baseNotLowest rn list = false → faults (.stm rn list) s)) ∧
    (∀ signed, (i, a, n, signed) ∈ loadForms s rt rn rm imm5 imm8 → a.toNat % n ≠ 0 ∨ unreadable s a → faults i s) ∧
    ((i, a, n) ∈ storeForms s rt rn rm imm5 imm8 → a.toNat % n ≠ 0 ∨ unwritable s a → faults i s)

/-- Every load and store form at a device: a load writes the device's answer, extended as its name says; a store leaves
the core and memory alone and can switch the memory map. At a ROM that ignores it a store does nothing. A word access to
a listed core peripheral register has that register's read or write effect; one to an unlisted address of the private
peripheral bus, and a narrower one to any, is refused.
What a device answers and does is the environment's, a free value where it says nothing: the model's choice
(notes/assumptions/11.md). -/
def Obligations.DevicesAndPeripheralsAnswer : Prop :=
  ∀ (s : State) (rt rn rm : LowReg) (imm5 : BitVec 5) (imm8 : BitVec 8) (i : Instr) (a : Word) (n : Nat),
    a.toNat % n = 0 →
    (∀ signed, (i, a, n, signed) ∈ loadForms s rt rn rm imm5 imm8 →
      (inPpb a = false → s.kindAt a = .device →
        (s.answers = [] →
          exec i s = .next (wrote { s with free := s.free + 1 } rt (extended n signed s.freeValue) s.flags)) ∧
        (∀ d ds, s.answers = d :: ds →
          exec i s = .next (wrote { s with answers := ds } rt (extended n signed d.value) s.flags))) ∧
      (∀ reg, n = 4 → ppbRegAt a = some reg →
        exec i s = .next (wrote (s.ppbRead reg).2 rt (s.ppbRead reg).1 s.flags))) ∧
    ((i, a, n) ∈ storeForms s rt rn rm imm5 imm8 →
      (inPpb a = false → s.kindAt a = .device →
        (s.answers = [] → onlyMoves i s 2) ∧
        (∀ d ds, s.answers = d :: ds →
          exec i s = .next { s with answers := ds, pc := s.pc + 2,
                                    platform := { s.platform with memMap := d.newMap.getD s.platform.memMap } })) ∧
      (inPpb a = false → s.kindAt a = .romIgnore → onlyMoves i s 2) ∧
      (∀ reg, n = 4 → ppbRegAt a = some reg →
        (∀ t, s.ppbWrite (s.lo rt) reg = .ok () t → exec i s = .next (t.advance 2)) ∧
        (∀ r, s.ppbWrite (s.lo rt) reg = .refused r → exec i s = .refused r))) ∧
    ((∃ signed, (i, a, n, signed) ∈ loadForms s rt rn rm imm5 imm8) ∨ (i, a, n) ∈ storeForms s rt rn rm imm5 imm8 →
      inPpb a = true →
      (n = 4 → ppbRegAt a = none → exec i s = .refused .ppbUnlisted) ∧
      (n ≠ 4 → exec i s = .refused .ppbAccessSize))

/-! ### Multiple transfers -/

/-- LDM, undisturbed and from readable words, loads each listed register from its place above the base, writes the base
back exactly when it is not listed, and changes nothing else. -/
def Obligations.LoadMultipleFillsTheList : Prop :=
  ∀ (s : State) (rn : LowReg) (list : RegList), list ≠ 0 → s.undisturbed → (s.lo rn).toNat % 4 = 0 →
    (∀ k < bitCount list, readable s (nth (s.lo rn) k)) →
    ∃ t, exec (.ldm rn list) s = .next t ∧ t = { s with r := t.r, pc := s.pc + 2 } ∧ sameHigh s t ∧
      ∀ i : LowReg, t.lo i =
        if list.getLsbD i.toNat then wordAt s (nth (s.lo rn) (rank list i))
        else if i = rn then nth (s.lo rn) (bitCount list) else s.lo i

/-- STM, undisturbed and to RAM, stores each listed register at its place above the base, a base that is listed
lowest with its old value, writes the base back, and changes nothing else. With a base that is listed and not lowest it
is refused in every state (41_memory_access.md R241, conflict C28). -/
def Obligations.StoreMultipleStoresTheList : Prop :=
  ∀ (s : State) (rn : LowReg) (list : RegList), list ≠ 0 →
    (baseNotLowest rn list = true → exec (.stm rn list) s = .refused .stmBaseNotLowest) ∧
    (baseNotLowest rn list = false → s.undisturbed → s.memoryCanonical → (s.lo rn).toNat % 4 = 0 →
      (∀ k < bitCount list, writable s (nth (s.lo rn) k)) →
      ∃ t, exec (.stm rn list) s = .next t ∧ t = { s with r := t.r, mem := t.mem, pc := s.pc + 2 } ∧ sameHigh s t ∧
        (∀ i : LowReg, list.getLsbD i.toNat → wordAt t (nth (s.lo rn) (rank list i)) = s.lo i) ∧
        sameOutside s t (s.lo rn) (bitCount list) ∧
        ∀ i : LowReg, t.lo i = if i = rn then nth (s.lo rn) (bitCount list) else s.lo i)

/-- PUSH, undisturbed and to RAM, stores the listed registers and with M LR below the stack pointer, lowest register
lowest, moves the current stack pointer down to them, and changes nothing else. -/
def Obligations.PushStoresBelowTheStack : Prop :=
  ∀ (s : State) (m : Bool) (list : RegList), (m = true ∨ list ≠ 0) → s.undisturbed → s.memoryCanonical →
    s.stacksAligned →
    let n := bitCount list + m.toNat
    let base := s.pushBase m list
    (∀ k < n, writable s (nth base k)) →
    ∃ t, exec (.push m list) s = .next t ∧ base = s.sp - BitVec.ofNat 32 (4 * n) ∧
      t = { s with mem := t.mem, msp := if s.usesPsp then s.msp else base,
                   psp := if s.usesPsp then base else s.psp, pc := s.pc + 2 } ∧
      (∀ i : LowReg, list.getLsbD i.toNat → wordAt t (nth base (rank list i)) = s.lo i) ∧
      (m = true → wordAt t (nth base (bitCount list)) = s.lr) ∧
      sameOutside s t base n

/-- POP without PC, and POP with PC where it is no exception return, undisturbed and from readable words: each listed
register takes its word, the current stack pointer moves above them, with PC the last word is branched to with its bit 0
going to T, and nothing else changes. -/
def Obligations.PopLoadsFromTheStack : Prop :=
  ∀ (s : State) (p : Bool) (list : RegList), (p = true ∨ list ≠ 0) → s.undisturbed → s.stacksAligned →
    let n := bitCount list + p.toNat
    let target := wordAt s (nth s.sp (bitCount list))
    (∀ k < n, readable s (nth s.sp k)) → (p = true → s.ipsr = 0 ∨ target.toNat < 0xF0000000) →
    ∃ t, exec (.pop p list) s = .next t ∧
      t = { s with r := t.r, msp := if s.usesPsp then s.msp else nth s.sp n,
                   psp := if s.usesPsp then nth s.sp n else s.psp,
                   pc := if p then BitVec.ofNat 32 (target.toNat / 2 * 2) else s.pc + 2,
                   thumb := if p then target.getLsbD 0 else s.thumb } ∧
      popped s t list

/-- A multiple transfer abandoned for an exception has the PC at the instruction itself, so that it runs again from the
beginning, and has written no register. STM and PUSH have made exactly their first stores; LDM and POP leave the state
as the interruption left it.
When the interruption is sampled is the model's choice (notes/assumptions/18.md). -/
def Obligations.AbandonedTransfersRestart : Prop :=
  ∀ (s : State) (x : Bool) (list : RegList) (rn : LowReg) (ms : MidSample),
    s.env.resetInTransfer = none → s.env.mid = some ms → s.interrupted.preempting.isSome = true → s.memoryCanonical →
    s.stacksAligned →
    s.interrupted.pc = s.pc ∧ s.interrupted.r = s.r ∧ s.interrupted.msp = s.msp ∧ s.interrupted.psp = s.psp ∧
    s.interrupted.mem = s.mem ∧
    (ms.after < bitCount list + x.toNat → (∀ k < ms.after, writable s (nth (s.pushBase x list) k)) →
      ∃ t, exec (.push x list) s = .next t ∧ t = { s.interrupted with mem := t.mem } ∧
        (∀ i : LowReg, list.getLsbD i.toNat → rank list i < ms.after →
          wordAt t (nth (s.pushBase x list) (rank list i)) = s.lo i) ∧
        sameOutside s t (s.pushBase x list) ms.after) ∧
    (ms.after < bitCount list → baseNotLowest rn list = false → (s.lo rn).toNat % 4 = 0 →
      (∀ k < ms.after, writable s (nth (s.lo rn) k)) →
      ∃ t, exec (.stm rn list) s = .next t ∧ t = { s.interrupted with mem := t.mem } ∧
        (∀ i : LowReg, list.getLsbD i.toNat → rank list i < ms.after →
          wordAt t (nth (s.lo rn) (rank list i)) = s.lo i) ∧
        sameOutside s t (s.lo rn) ms.after) ∧
    (ms.after < bitCount list + x.toNat → (∀ k < ms.after, readable s (nth s.sp k)) →
      exec (.pop x list) s = .next s.interrupted) ∧
    (ms.after < bitCount list → (s.lo rn).toNat % 4 = 0 → (∀ k < ms.after, readable s (nth (s.lo rn) k)) →
      exec (.ldm rn list) s = .next s.interrupted)

/-- A bus error at word k of an undisturbed multiple transfer takes HardFault with the instruction's own address as
return address: LDM and POP have written no register; STM and PUSH have stored their first k words, and moved no base and
no stack pointer. -/
def Obligations.BusErrorsInsideTransfers : Prop :=
  ∀ (s : State) (x : Bool) (list : RegList) (rn : LowReg) (k : Nat), s.undisturbed → -1 < s.execPriority →
    canEnter 3 s →
    (k < bitCount list → (s.lo rn).toNat % 4 = 0 → (∀ j < k, readable s (nth (s.lo rn) j)) →
      unreadable s (nth (s.lo rn) k) → takesHardFault (.ldm rn list) s) ∧
    (k < bitCount list + x.toNat → (∀ j < k, readable s (nth s.sp j)) → unreadable s (nth s.sp k) →
      takesHardFault (.pop x list) s) ∧
    (k < bitCount list → baseNotLowest rn list = false → (s.lo rn).toNat % 4 = 0 →
      (∀ j < k, writable s (nth (s.lo rn) j)) → unwritable s (nth (s.lo rn) k) →
      ∃ u t, exec (.stm rn list) s = .next t ∧ entered 3 s.pc u t ∧ u = { s with mem := u.mem } ∧
        (∀ i : LowReg, list.getLsbD i.toNat → rank list i < k →
          wordAt u (nth (s.lo rn) (rank list i)) = s.lo i) ∧
        sameOutside s u (s.lo rn) k) ∧
    (k < bitCount list + x.toNat → (∀ j < k, writable s (nth (s.pushBase x list) j)) →
      unwritable s (nth (s.pushBase x list) k) →
      ∃ u t, exec (.push x list) s = .next t ∧ entered 3 s.pc u t ∧ u = { s with mem := u.mem } ∧
        (∀ i : LowReg, list.getLsbD i.toNat → rank list i < k →
          wordAt u (nth (s.pushBase x list) (rank list i)) = s.lo i) ∧
        sameOutside s u (s.pushBase x list) k)

/-! ### Exceptions -/

/-- Taking an exception stacks the eight words, enters the handler and leaves the rest alone. -/
def Obligations.ExceptionEntryStacksAndEnters : Prop :=
  ∀ (s : State) (n : Nat) (ra : Word), canEnter n s → ∃ t, takeException n ra s = .next t ∧ entered n ra s t

/-- SVC, where the execution priority lets SVCall in, takes an exception with the address after it as return address:
SVCall, with nothing else to be taken first; else, once what the environment samples meanwhile has been taken in, the
candidate, and where that is not SVCall, SVCall stays pending. An enabled and inactive interrupt of a higher priority
than SVCall's, whose line is then asserted, comes late in this way. At a priority at or above SVCall's SVC takes HardFault
with its own address, or locks the processor up.
That the entry is part of SVC's own step, and where in it the lines are sampled, is deduced (notes/assumptions/38.md). -/
def Obligations.SupervisorCallTakesSVCall : Prop :=
  ∀ (s : State) (imm8 : BitVec 8),
    let u := (s.pend 11).interrupted
    (s.nvic.priority 11 < s.execPriority →
      (s.env.mid = none → s.preempting = none → canEnter 11 s →
        ∃ t, exec (.svc imm8) s = .next t ∧ entered 11 (s.pc + 2) s t) ∧
      (∃ n, u.preempting = some n ∧
        (canEnter n u → ∃ t, exec (.svc imm8) s = .next t ∧ entered n (s.pc + 2) u t ∧
          (n ≠ 11 → t.nvic.pending.getLsbD 11 = true))) ∧
      (∀ (ms : MidSample) (m : Nat), s.env.mid = some ms → m < 32 → ms.sample.lines.getLsbD m = true →
        s.nvic.enable.getLsbD m = true → s.nvic.active.getLsbD (16 + m) = false →
        s.nvic.priority (16 + m) < s.nvic.priority 11 → u.preempting ≠ some 11)) ∧
    (s.execPriority ≤ s.nvic.priority 11 → faults (.svc imm8) s)

/-- BKPT without a debugger and the permanently undefined instructions take HardFault with their own address as return
address; in the HardFault or NMI handler they lock the processor up; with a debugger BKPT is refused. -/
def Obligations.FaultingInstructionsTakeHardFault : Prop :=
  ∀ (s : State) (imm8 : BitVec 8) (imm16 : BitVec 16),
    (-1 < s.execPriority → canEnter 3 s →
      takesHardFault (.udf imm8) s ∧ takesHardFault (.udfW imm16) s ∧
      (s.platform.debugger = false → takesHardFault (.bkpt imm8) s)) ∧
    (s.execPriority ≤ -1 →
      exec (.udf imm8) s = .next { s with run := .lockup } ∧ exec (.udfW imm16) s = .next { s with run := .lockup } ∧
      (s.platform.debugger = false → exec (.bkpt imm8) s = .next { s with run := .lockup })) ∧
    (s.platform.debugger = true → exec (.bkpt imm8) s = .refused .debugState)

/-- An exception entered and at once returned from by BX LR, with nothing to tail-chain, restores the registers, both
stack pointers, the flags, T, the mode and the stack selection, and continues at the return address. -/
def Obligations.EntryThenReturnRestores : Prop :=
  ∀ (s t : State) (n : Nat) (ra : Word), s.Inv → s.run = .running → canEnter n s →
    s.nvic.active.getLsbD n = false → ra.toNat % 2 = 0 → takeException n ra s = .next t →
    t.deactivateCurrent.preempting = none →
    ∃ u, exec (.bx 14 sbBranch) t = .next u ∧ u.r = s.r ∧ u.msp = s.msp ∧ u.psp = s.psp ∧ u.lr = s.lr ∧
      u.pc = ra ∧ u.flags = s.flags ∧ u.thumb = s.thumb ∧ u.ipsr = s.ipsr ∧ u.spsel = s.spsel ∧
      u.primask = s.primask ∧ u.nvic.active = s.nvic.active ∧ u.mem = t.mem ∧
      u.run = if s.ipsr = 0 ∧ s.scr.sleepOnExit = true then .sleeping .wfi else .running

/-- A BX or POP that returns from an exception with nothing to tail-chain, its frame readable: it restores R0 to R3, R12,
LR, the PC, the flags, T, the mode, the stack selection and the stack pointer with its alignment from the eight words of
the frame, ends the handler's active state, sleeps with sleep-on-exit in Thread mode, and changes nothing else. A frame
whose return address is odd, or whose exception number disagrees with the mode returned to or names no active exception,
is refused. -/
def Obligations.ReturnsRestoreTheFrame : Prop :=
  ∀ (i : Instr) (s u : State) (addr : Word), returnsBy i s addr u → u.stacksAligned → returnAgrees u addr →
    u.deactivateCurrent.preempting = none → (∀ k < 8, readable s (nth (frameOf u addr) k)) →
    let w := fun k => wordAt s (nth (frameOf u addr) k)
    let usePsp := decide (addr = 0xFFFFFFFD#32)
    let toThread := decide (addr ≠ 0xFFFFFFF1#32)
    let sp := (frameOf u addr + 32) ||| (if (w 7).getLsbD 9 then 4#32 else 0#32)
    let number : BitVec 6 := (w 7).setWidth 6
    let fits := (toThread = true ∧ number = 0) ∨ (toThread = false ∧ number.toNat ∈ exceptionNumbers ∧
      u.deactivateCurrent.nvic.active.getLsbD number.toNat = true)
    ((w 6).getLsbD 0 = true → exec i s = .refused .oddReturnAddress) ∧
    ((w 6).getLsbD 0 = false → ¬ fits → exec i s = .refused .badStackedIpsr) ∧
    ((w 6).getLsbD 0 = false → fits → ∃ t, exec i s = .next t ∧
      t = { u.deactivateCurrent with
              r := t.r, msp := if usePsp then u.msp else sp, psp := if usePsp then sp else u.psp, lr := w 5, pc := w 6,
              flags := ⟨(w 7).getLsbD 31, (w 7).getLsbD 30, (w 7).getLsbD 29, (w 7).getLsbD 28⟩,
              thumb := (w 7).getLsbD 24, ipsr := number, spsel := usePsp,
              run := if toThread && u.scr.sleepOnExit then .sleeping .wfi else .running } ∧
      t.x 0 = w 0 ∧ t.x 1 = w 1 ∧ t.x 2 = w 2 ∧ t.x 3 = w 3 ∧ t.x 12 = w 4 ∧
      ∀ m : Reg, 4 ≤ m.toNat → m.toNat ≤ 11 → t.x m = u.x m)

/-- A handler that ends by BX or POP while an exception may be taken hands over to it on the same frame: nothing is
stacked or unstacked, LR keeps the EXC_RETURN value, the old exception is no longer active and the new one is. -/
def Obligations.TailChainingKeepsTheFrame : Prop :=
  ∀ (i : Instr) (s u : State) (addr : Word) (m : Nat), returnsBy i s addr u → returnAgrees u addr →
    u.deactivateCurrent.preempting = some m → readable s (vectorAddress m) →
    ∃ t, exec i s = .next t ∧ handlerEntered m addr u.deactivateCurrent t ∧
      t.mem = s.mem ∧ t.msp = u.msp ∧ t.psp = u.psp

/-- In Handler mode a BX or POP to a reserved EXC_RETURN value, or to one that disagrees with the other active
exceptions, and a BLX to any of them are refused; nothing is guessed. -/
def Obligations.ReservedReturnsRefused : Prop :=
  (∀ (i : Instr) (s u : State) (addr : Word), returnsBy i s addr u →
    (addr ≠ 0xFFFFFFF1#32 → addr ≠ 0xFFFFFFF9#32 → addr ≠ 0xFFFFFFFD#32 →
      exec i s = .refused .reservedExcReturn) ∧
    (addr = 0xFFFFFFF1#32 → u.othersActive = false → exec i s = .refused .inconsistentExcReturn) ∧
    (addr = 0xFFFFFFF9#32 ∨ addr = 0xFFFFFFFD#32 → u.othersActive = true →
      exec i s = .refused .inconsistentExcReturn)) ∧
  ∀ (s : State) (rm : Reg), s.ipsr ≠ 0 → rm ≠ 13 → rm ≠ 15 → 0xF0000000 ≤ (s.x rm).toNat →
    exec (.blx rm sbBranch) s = .refused .blxExcReturn

/-- A bus error on the vector fetch of an exception other than HardFault and NMI enters HardFault in its place on the
frame that stands already, the exception staying pending; where HardFault's vector fails too, or for HardFault and NMI
themselves, the processor locks up. A bus error on the PSR word of a return through MSP locks up; one on another word of
a return or on a store of an entry is a fault by name.
The mechanism is the model's choice (notes/assumptions/40.md), and so are the two named faults (41.md). -/
def Obligations.BusErrorsInEntryAndReturn : Prop :=
  (∀ (s : State) (n : Nat) (link : Word), n ∈ exceptionNumbers → s.kindAt (vectorAddress n) = .absent →
    (n ≠ 2 → n ≠ 3 → readable s (vectorAddress 3) →
      ∃ t, startHandler n link s = .next t ∧ t.ipsr = 3 ∧ t.lr = link ∧ t.spsel = false ∧
        t.pc = halfAligned (wordAt s (vectorAddress 3)) ∧ t.thumb = (wordAt s (vectorAddress 3)).getLsbD 0 ∧
        t.nvic.pending = setBit s.nvic.pending n ∧ t.nvic.active = setBit (clearBit s.nvic.active n) 3 ∧
        t.mem = s.mem ∧ t.msp = s.msp ∧ t.psp = s.psp) ∧
    (n = 2 ∨ n = 3 ∨ s.kindAt (vectorAddress 3) = .absent →
      ∃ t, startHandler n link s = .next t ∧ t.run = .lockup ∧ t.r = s.r ∧ t.lr = link ∧ t.pc = s.pc ∧
        t.mem = s.mem ∧ t.msp = s.msp ∧ t.psp = s.psp)) ∧
  (∀ (i : Instr) (s u : State) (addr : Word) (k : Nat), returnsBy i s addr u → u.stacksAligned → returnAgrees u addr →
    u.deactivateCurrent.preempting = none → k < 8 → (∀ j < k, readable s (nth (frameOf u addr) j)) →
    unreadable s (nth (frameOf u addr) k) →
    (k = 7 → addr ≠ 0xFFFFFFFD#32 → exec i s = .next { u.deactivateCurrent with run := .lockup }) ∧
    (k ≠ 7 ∨ addr = 0xFFFFFFFD#32 → exec i s = .fault .unstackingBusError)) ∧
  (∀ (s : State) (n : Nat) (ra : Word) (k : Nat), s.env.resetInEntry = none → s.stacksAligned → k < 8 →
    (∀ j < k, writable s (nth ((s.sp - 32) &&& 0xFFFFFFFB#32) j)) →
    unwritable s (nth ((s.sp - 32) &&& 0xFFFFFFFB#32) k) → takeException n ra s = .fault .stackingBusError)

/-- The candidate is pending and enabled, and no other such exception has a lower priority number, or the same and a
lower exception number; there is none exactly when no exception is pending and enabled. -/
def Obligations.CandidateIsTheHighestPriority : Prop :=
  ∀ (v : Nvic) (n : Nat),
    (v.candidate = some n ↔
      n ∈ exceptionNumbers ∧ v.pending.getLsbD n = true ∧ v.enabled n = true ∧
      ∀ m ∈ exceptionNumbers, v.pending.getLsbD m = true → v.enabled m = true →
        v.priority n < v.priority m ∨ (v.priority n = v.priority m ∧ n ≤ m)) ∧
    (v.candidate = none ↔ ∀ m ∈ exceptionNumbers, v.pending.getLsbD m = true → v.enabled m = false)

/-- A step of a running processor takes the exception that the boundary test selects, with the PC as return address.
That exception preempts only active exceptions of a strictly higher priority number, and with PRIMASK set it is NMI or
HardFault.
The environment's schedule, that the agents act before the processor, and taking an exception at the first boundary are
the model's choice (notes/assumptions/9.md, 13.md, 17.md). -/
def Obligations.PreemptionIsStrictAndMasked : Prop :=
  ∀ (s : State) (n : Nat),
    (s.nextEnv.env.reset = false → s.run = .running → s.nextEnv.agents.preempting = some n →
      step s = takeException n s.pc s.nextEnv.agents) ∧
    (s.preempting = some n →
      (∀ m ∈ exceptionNumbers, s.nvic.active.getLsbD m = true → s.nvic.priority n < s.nvic.priority m) ∧
      (s.primask = true → n = 2 ∨ n = 3))

/-! ### Interrupt lines, the timer and the register file of the core peripherals -/

/-- A sampling makes an interrupt pending exactly when it was pending, when its line is asserted and it is neither
pending nor active, or when its line rises; it changes no active bit; and sampling the same levels again changes nothing.
Of several samplings between two processor steps each counts: a line that is low at one and high at the next is pending
afterwards, whatever it is later. -/
def Obligations.SamplingLatchesLines : Prop :=
  ∀ (s : State) (lines : BitVec 32) (m : Nat), m < 32 →
    ((s.sampleLines lines).nvic.pending.getLsbD (16 + m) =
      (s.nvic.pending.getLsbD (16 + m) ||
        (lines.getLsbD m && (!s.nvic.active.getLsbD (16 + m) || !s.nvic.linePrev.getLsbD m)))) ∧
    (∀ k < 16, (s.sampleLines lines).nvic.pending.getLsbD k = s.nvic.pending.getLsbD k) ∧
    (s.sampleLines lines).nvic.active = s.nvic.active ∧ (s.sampleLines lines).nvic.linePrev = lines ∧
    (s.sampleLines lines).sampleLines lines = s.sampleLines lines ∧
    (∀ (before after : List AgentStep) (low high : BitVec 32), low.getLsbD m = false → high.getLsbD m = true →
      (s.takeSample ⟨before ++ [.sampled low, .sampled high] ++ after, lines⟩).nvic.pending.getLsbD (16 + m) = true)

/-- The timer with RELOAD = N - 1, started from 0: N cycles later it is at 0 again, COUNTFLAG is set and with TICKINT
SysTick is pending; before that it counts down and raises nothing. A timer that is disabled, or whose clock source the
platform does not have, or whose RELOAD and CURRENT are 0, never changes anything. -/
def Obligations.TimerPeriodIsReloadPlusOne : Prop :=
  ∀ (s : State) (k : Nat),
    (s.sysTickClocked = true → s.sysTick.current = 0 → 1 ≤ s.sysTick.reload.toNat →
      (1 ≤ k → k ≤ s.sysTick.reload.toNat →
        (s.ticks k).sysTick.current.toNat = s.sysTick.reload.toNat + 1 - k ∧
        (s.ticks k).sysTick.countFlag = s.sysTick.countFlag ∧ (s.ticks k).nvic = s.nvic) ∧
      (k = s.sysTick.reload.toNat + 1 →
        (s.ticks k).sysTick.current = 0 ∧ (s.ticks k).sysTick.countFlag = true ∧
        (s.ticks k).nvic.pending.getLsbD 15 = (s.sysTick.tickInt || s.nvic.pending.getLsbD 15))) ∧
    ((s.sysTick.enable = false ∨ (s.sysTick.clkSource = false ∧ s.platform.refClock = false) ∨
      (s.sysTick.reload = 0 ∧ s.sysTick.current = 0)) → s.ticks k = s)

/-- The enable, pending and priority registers: a write of 1 bits sets or clears exactly those bits, what is read back is
the bits as they are, and a priority field keeps its two upper bits only. -/
def Obligations.InterruptRegistersReadBack : Prop :=
  ∀ (s : State) (v : Word) (k : BitVec 3) (j : Nat), j < 4 →
    (s.ppbWrite v .iser = .ok () (s.enableIrqs v)) ∧ ((s.enableIrqs v).ppbRead .icer).1 = s.nvic.enable ||| v ∧
    (s.ppbWrite v .icer = .ok () (s.disableIrqs v)) ∧ ((s.disableIrqs v).ppbRead .iser).1 = s.nvic.enable &&& ~~~v ∧
    (s.ppbWrite v .ispr = .ok () (s.pendIrqs v)) ∧
    ((s.pendIrqs v).ppbRead .icpr).1 = (s.ppbRead .ispr).1 ||| v ∧
    (s.ppbWrite v .icpr = .ok () (s.unpendIrqs v)) ∧
    ((s.unpendIrqs v).ppbRead .ispr).1 = (s.ppbRead .ispr).1 &&& ~~~v ∧
    (s.unpendIrqs v).nvic.active = s.nvic.active ∧
    (s.ppbWrite v (.ipr k) = .ok () (s.writeIpr k v)) ∧
    ((s.writeIpr k v).ppbRead (.ipr k)).1 = v &&& 0xC0C0C0C0#32 ∧
    (s.writeIpr k v).nvic.priority (16 + (4 * k.toNat + j)) = ((byteAt v j).toNat / 64 * 64 : Nat)

/-- The system control and timer registers. A write of SYST_CSR, SYST_RVR, SYST_CVR, SCR, SHPR2 or SHPR3 sets exactly the
fields its rule names, one of CPUID, CCR or SYST_CALIB nothing; a read of one of these, of ICSR or of AIRCR shows those
fields, the constants, the pending bits, VECTPENDING, ISRPENDING and VECTACTIVE of ICSR, the three stated bits of AIRCR,
and the current count, whatever the free value of the reserved bits is; reading SYST_CSR clears COUNTFLAG.
That VECTPENDING ignores PRIMASK and that ISRPENDING counts interrupts only, enabled or not, is the model's choice
(notes/assumptions/44.md), and so are the constants of CCR and SYST_CALIB (33.md). -/
def Obligations.SystemRegistersReadBack : Prop :=
  ∀ (s : State) (v : Word),
    s.ppbWrite v .systCsr = .ok () { s with sysTick := { s.sysTick with
      enable := v.getLsbD 0, tickInt := v.getLsbD 1, clkSource := v.getLsbD 2 } } ∧
    s.ppbWrite v .systRvr = .ok () { s with sysTick := { s.sysTick with reload := v.setWidth 24 } } ∧
    s.ppbWrite v .systCvr = .ok () { s with sysTick := { s.sysTick with current := 0, countFlag := false } } ∧
    s.ppbWrite v .scr = .ok () { s with scr := ⟨v.getLsbD 4, v.getLsbD 2, v.getLsbD 1⟩ } ∧
    s.ppbWrite v .shpr2 = .ok () { s with nvic := { s.nvic with svcPrio := v.extractLsb' 30 2 } } ∧
    s.ppbWrite v .shpr3 = .ok () { s with nvic := { s.nvic with
      sysTickPrio := v.extractLsb' 30 2, pendSvPrio := v.extractLsb' 22 2 } } ∧
    (∀ reg ∈ ([.systCalib, .cpuid, .ccr] : List PpbReg), s.ppbWrite v reg = .ok () s) ∧
    (s.ppbRead .cpuid).1 = 0x410CC200#32 ∧ (s.ppbRead .ccr).1 = 0x00000208#32 ∧
    (s.ppbRead .systCalib).1 = 0xC0000000#32 ∧
    (s.ppbRead .systCsr).1.getLsbD 0 = s.sysTick.enable ∧ (s.ppbRead .systCsr).1.getLsbD 1 = s.sysTick.tickInt ∧
    (s.ppbRead .systCsr).1.getLsbD 2 = s.sysTick.clkSource ∧
    (s.ppbRead .systCsr).1.getLsbD 16 = s.sysTick.countFlag ∧
    (s.ppbRead .systCsr).2 = { s with sysTick := { s.sysTick with countFlag := false }, free := s.free + 1 } ∧
    (s.ppbRead .systRvr).1.toNat % 2 ^ 24 = s.sysTick.reload.toNat ∧
    (s.ppbRead .systCvr).1.toNat % 2 ^ 24 = s.sysTick.current.toNat ∧
    (s.ppbRead .shpr2).1.toNat / 2 ^ 24 = 64 * s.nvic.svcPrio.toNat ∧
    (s.ppbRead .shpr3).1.toNat / 2 ^ 24 = 64 * s.nvic.sysTickPrio.toNat ∧
    (s.ppbRead .shpr3).1.toNat / 2 ^ 16 % 2 ^ 8 = 64 * s.nvic.pendSvPrio.toNat ∧
    s.nvic.priority 11 = (64 * s.nvic.svcPrio.toNat : Nat) ∧ s.nvic.priority 14 = (64 * s.nvic.pendSvPrio.toNat : Nat) ∧
    s.nvic.priority 15 = (64 * s.nvic.sysTickPrio.toNat : Nat) ∧
    (s.ppbRead .scr).1.getLsbD 4 = s.scr.sevOnPend ∧ (s.ppbRead .scr).1.getLsbD 2 = s.scr.sleepDeep ∧
    (s.ppbRead .scr).1.getLsbD 1 = s.scr.sleepOnExit ∧
    (s.ppbRead .aircr).1.getLsbD 15 = false ∧ (s.ppbRead .aircr).1.getLsbD 2 = false ∧
    (s.ppbRead .aircr).1.getLsbD 1 = false ∧
    (s.ppbRead .icsr).1.getLsbD 28 = s.nvic.pending.getLsbD 14 ∧
    (s.ppbRead .icsr).1.getLsbD 26 = s.nvic.pending.getLsbD 15 ∧
    (s.ppbRead .icsr).1.getLsbD 31 = false ∧
    ((s.ppbRead .icsr).1.getLsbD 22 = true ↔ ∃ m < 32, s.nvic.pending.getLsbD (16 + m) = true) ∧
    (s.ppbRead .icsr).1.toNat / 2 ^ 12 % 2 ^ 6 = s.nvic.candidate.getD 0 ∧
    (s.ppbRead .icsr).1.toNat % 2 ^ 6 = s.ipsr.toNat

/-- A write of ICSR sets or clears the pending state of PendSV and SysTick as its four bits say; with both bits of a
pair set the result is the free value's. Nothing else changes.
The free value is the model's form of an unknown result (notes/assumptions/35.md); that the event register stays even
with SEVONPEND is deduced (notes/assumptions/36.md). -/
def Obligations.PendingBitsFollowIcsrWrites : Prop :=
  ∀ (s : State) (v : Word), v.getLsbD 31 = false →
    ∃ t, s.ppbWrite v .icsr = .ok () t ∧
      (v.getLsbD 28 = true → v.getLsbD 27 = false → t.nvic.pending.getLsbD 14 = true) ∧
      (v.getLsbD 28 = false → v.getLsbD 27 = true → t.nvic.pending.getLsbD 14 = false) ∧
      (v.getLsbD 28 = false → v.getLsbD 27 = false → t.nvic.pending.getLsbD 14 = s.nvic.pending.getLsbD 14) ∧
      (v.getLsbD 28 = true → v.getLsbD 27 = true → t.nvic.pending.getLsbD 14 = s.freeValue.getLsbD 0) ∧
      (v.getLsbD 26 = true → v.getLsbD 25 = false → t.nvic.pending.getLsbD 15 = true) ∧
      (v.getLsbD 26 = false → v.getLsbD 25 = true → t.nvic.pending.getLsbD 15 = false) ∧
      (v.getLsbD 26 = false → v.getLsbD 25 = false → t.nvic.pending.getLsbD 15 = s.nvic.pending.getLsbD 15) ∧
      (v.getLsbD 26 = true → v.getLsbD 25 = true → t.nvic.pending.getLsbD 15 = s.freeValue.getLsbD 1) ∧
      (∀ k, k ≠ 14 → k ≠ 15 → t.nvic.pending.getLsbD k = s.nvic.pending.getLsbD k) ∧
      t = { s with nvic := { s.nvic with pending := t.nvic.pending }, free := s.free + 1 }

/-! ### Special registers and the other instructions -/

/-- MRS writes the stated bits of the special register to Rd, free values in the others, and nothing else. -/
def Obligations.MrsReadsTheStatedBits : Prop :=
  ∀ (s : State) (rd : Reg) (sysm : BitVec 8), rd ≠ 13 → rd ≠ 15 → sysm ∈ sysmNames →
    ∃ t, exec (.mrs rd sysm sbMrs) s = .next t ∧ mrsWrote s t rd ∧
      t.x rd &&& (stated s sysm.toNat).2 = (stated s sysm.toNat).1

/-- MSR writes the flags, a stack pointer with bits [1:0] clear, PRIMASK, or in Thread mode the stack selection; to the
IPSR, the EPSR and, in Handler mode, CONTROL it writes nothing. -/
def Obligations.MsrWritesTheSpecialRegister : Prop :=
  ∀ (s : State) (rn : Reg), rn ≠ 13 → rn ≠ 15 →
    let v := s.x rn
    (∀ sysm ∈ ([0, 1, 2, 3] : List (BitVec 8)), exec (.msr rn sysm sbMsr) s =
      .next { s with flags := ⟨v.getLsbD 31, v.getLsbD 30, v.getLsbD 29, v.getLsbD 28⟩, pc := s.pc + 4 }) ∧
    (∀ sysm ∈ ([5, 6, 7] : List (BitVec 8)), onlyMoves (.msr rn sysm sbMsr) s 4) ∧
    exec (.msr rn 8 sbMsr) s = .next { s with msp := BitVec.ofNat 32 (v.toNat / 4 * 4), pc := s.pc + 4 } ∧
    exec (.msr rn 9 sbMsr) s = .next { s with psp := BitVec.ofNat 32 (v.toNat / 4 * 4), pc := s.pc + 4 } ∧
    exec (.msr rn 16 sbMsr) s = .next { s with primask := v.getLsbD 0, pc := s.pc + 4 } ∧
    (s.ipsr = 0 → exec (.msr rn 20 sbMsr) s = .next { s with spsel := v.getLsbD 1, pc := s.pc + 4 }) ∧
    (s.ipsr ≠ 0 → onlyMoves (.msr rn 20 sbMsr) s 4)

/-- NOP (0xBF00) and YIELD (0xBF10) move the PC on by 2 and nothing else; SEV (0xBF40) sets the event register
besides. -/
def Obligations.NopYieldAndSev : Prop :=
  coded 0xBF00 .nop ∧ coded 0xBF10 .yieldHint ∧ coded 0xBF40 .sev ∧
  ∀ s : State, onlyMoves .nop s 2 ∧ onlyMoves .yieldHint s 2 ∧
    exec .sev s = .next { s with event := true, pc := s.pc + 2 }

/-- CPSID sets PRIMASK and CPSIE clears it, in either mode; the reserved hints and the barriers, whatever their option,
change nothing; and each moves the PC on. The reserved hints and the barrier options other than 1111 are the model's
choice (notes/assumptions/24.md, 25.md). -/
def Obligations.MaskHintAndBarrierInstructions : Prop :=
  ∀ (s : State) (opA option : BitVec 4),
    exec (.cpsid sbCps) s = .next { s with primask := true, pc := s.pc + 2 } ∧
    exec (.cpsie sbCps) s = .next { s with primask := false, pc := s.pc + 2 } ∧
    (5 ≤ opA.toNat → onlyMoves (.reservedHint opA) s 2) ∧
    onlyMoves (.dsb option sbBarrier) s 4 ∧ onlyMoves (.dmb option sbBarrier) s 4 ∧
    onlyMoves (.isb option sbBarrier) s 4

/-- WFE, on a platform that lets it run, with the event register set clears it and completes; otherwise it completes
where the environment wakes the processor and sleeps where it does not; on a platform that refuses it, it is refused. WFI
completes where an exception waits that PRIMASK at most holds back or where the environment wakes the processor, and
sleeps otherwise.
That the environment's schedule decides is the model's choice (notes/assumptions/9.md, 12.md). -/
def Obligations.WaitsCompleteOrSleep : Prop :=
  ∀ s : State,
    (s.platform.wfeMode = .nondeterministic →
      (s.event = true → exec .wfe s = .next { s with event := false, pc := s.pc + 2 }) ∧
      (s.event = false → s.env.wake = true → onlyMoves .wfe s 2) ∧
      (s.event = false → s.env.wake = false →
        exec .wfe s = .next { s with run := .sleeping .wfe, pc := s.pc + 2 })) ∧
    (s.platform.wfeMode = .refuse → exec .wfe s = .refused .wfeUnusable) ∧
    (s.wakesMasked = true ∨ s.env.wake = true → onlyMoves .wfi s 2) ∧
    (s.wakesMasked = false → s.env.wake = false →
      exec .wfi s = .next { s with run := .sleeping .wfi, pc := s.pc + 2 })

/-- A sleeping processor, once the agents have acted: it takes an exception that may be taken; asleep by WFI it wakes for
one that only PRIMASK holds back, asleep by WFE for the event register, which it clears; a spurious wake-up wakes it;
otherwise it sleeps on.
The environment's schedule, that the agents act before the processor, and that an exception comes before a set event
register are the model's choice (notes/assumptions/9.md, 12.md, 13.md, 47.md). -/
def Obligations.SleepEndsAsTheRulesSay : Prop :=
  ∀ (s : State) (w : WakeSet), s.nextEnv.env.reset = false → s.run = .sleeping w →
    let a := s.nextEnv.agents
    (∀ n, a.preempting = some n → step s = takeException n s.pc a) ∧
    (a.preempting = none →
      (w = .wfi → a.wakesMasked = true ∨ a.env.wake = true → step s = .next { a with run := .running }) ∧
      (w = .wfi → a.wakesMasked = false → a.env.wake = false → step s = .next a) ∧
      (w = .wfe → a.event = true → step s = .next { a with run := .running, event := false }) ∧
      (w = .wfe → a.event = false → a.env.wake = true → step s = .next { a with run := .running }) ∧
      (w = .wfe → a.event = false → a.env.wake = false → step s = .next a))

/-! ### Reset and lockup -/

/-- Right after reset the machine is in Thread mode on the main stack, running, with nothing pending, active, enabled or
masked, every priority 0, no bit of SCR set and the timer disabled. MSP, the PC and T, which reset takes from memory, are
not spoken of here. -/
def Obligations.ResetLeavesTheStatedValues : Prop :=
  State.reset.ipsr = 0 ∧ State.reset.spsel = false ∧ State.reset.primask = false ∧ State.reset.run = .running ∧
  State.reset.nvic.pending = 0 ∧ State.reset.nvic.active = 0 ∧ State.reset.nvic.enable = 0 ∧
  (∀ m < 32, State.reset.nvic.priority (16 + m) = 0) ∧ State.reset.nvic.priority 11 = 0 ∧
  State.reset.nvic.priority 14 = 0 ∧ State.reset.nvic.priority 15 = 0 ∧
  State.reset.scr = ⟨false, false, false⟩ ∧ State.reset.sysTick.enable = false ∧
  State.reset.sysTick.tickInt = false ∧ State.reset.sysTick.clkSource = false ∧
  State.reset.sysTick.countFlag = false

/-- When reset is released, MSP, PC and T come from the two words at addresses 0 and 4, everything the spec states a
reset value for has it, and memory and the platform are as they were.
The environment's schedule is the model's choice (notes/assumptions/9.md). -/
def Obligations.ReleasedResetBoots : Prop :=
  ∀ s : State, s.run = .inReset → s.nextEnv.env.reset = false → readable s 0 → readable s 4 →
    ∃ t, step s = .next t ∧ t.msp = wordAligned (wordAt s 0) ∧ t.pc = halfAligned (wordAt s 4) ∧
      t.thumb = (wordAt s 4).getLsbD 0 ∧ t.ipsr = 0 ∧ t.spsel = false ∧ t.primask = false ∧ t.run = .running ∧
      t.nvic = State.reset.nvic ∧ t.scr = State.reset.scr ∧ t.resetReq = false ∧
      t.sysTick.enable = false ∧ t.sysTick.tickInt = false ∧ t.sysTick.clkSource = false ∧
      t.sysTick.countFlag = false ∧ t.mem = s.mem ∧ t.platform = s.platform

/-- A keyed write of AIRCR with SYSRESETREQ latches the request and one without the key does nothing; where the
environment's schedule is empty the next step asserts reset.
The latch and the schedule are the model's choice (notes/assumptions/9.md, 34.md). -/
def Obligations.RequestedResetIsAnswered : Prop :=
  ∀ (s : State) (v : Word),
    (v.toNat / 2 ^ 16 = 0x05FA → v.getLsbD 1 = false → v.getLsbD 2 = true →
      s.ppbWrite v .aircr = .ok () { s with resetReq := true }) ∧
    (v.toNat / 2 ^ 16 ≠ 0x05FA → s.ppbWrite v .aircr = .ok () s) ∧
    (s.resetReq = true → s.future = [] →
      ∃ t, step s = .next t ∧ t.run = .inReset ∧ t.resetReq = false ∧ t.mem = s.mem)

/-- In lockup, and while reset is asserted, no instruction executes: a step changes no register, no stack pointer, no
flag, no mode, no mask, no stack selection, no active exception and no memory; in lockup only reset changes the run
state.
The environment's schedule is the model's choice (notes/assumptions/9.md). -/
def Obligations.LockupAndResetExecuteNothing : Prop :=
  ∀ s : State, (s.run = .lockup ∨ s.nextEnv.env.reset = true) →
    ∃ t, step s = .next t ∧ t.r = s.r ∧ t.msp = s.msp ∧ t.psp = s.psp ∧ t.lr = s.lr ∧ t.pc = s.pc ∧
      t.flags = s.flags ∧ t.thumb = s.thumb ∧ t.ipsr = s.ipsr ∧ t.primask = s.primask ∧ t.spsel = s.spsel ∧
      t.nvic.active = s.nvic.active ∧ t.mem = s.mem ∧
      t.run = if s.nextEnv.env.reset = true then .inReset else .lockup

/-! ### Invariants and whole-machine rules -/

/-- The invariant holds right after reset. -/
def Obligations.InvariantHoldsAtReset : Prop := State.reset.Inv

/-- Every step keeps the memory in its canonical form, which is the model's own (notes/assumptions/3.md). -/
def Obligations.StepKeepsMemoryCanonical : Prop :=
  ∀ s t : State, s.memoryCanonical → step s = .next t → t.memoryCanonical

/-- Every step keeps both stack pointers word-aligned and the PC halfword-aligned. -/
def Obligations.StepKeepsAlignment : Prop :=
  ∀ s t : State, s.stacksAligned → s.pcAligned → step s = .next t → t.stacksAligned ∧ t.pcAligned

/-- Every step keeps the whole invariant: besides memory and alignment, only exceptions this chip has are pending or
active, PSP is selected only in Thread mode, and while the processor is alive IPSR agrees with the active
exceptions. -/
def Obligations.StepKeepsTheInvariant : Prop :=
  ∀ s t : State, s.Inv → step s = .next t → t.Inv

/-- Only CPS and MSR PRIMASK change PRIMASK. -/
def Obligations.OnlyCpsAndMsrChangePrimask : Prop :=
  ∀ (i : Instr) (s t : State), exec i s = .next t → t.primask ≠ s.primask →
    (∃ sb, i = .cpsie sb ∨ i = .cpsid sb) ∨ ∃ rn sb, i = .msr rn 16 sb
end

