-- ==== Sys2Proof/Laws/Memory.lean ====
section
/-! SUPPORT. The laws of the stored bytes: reading after writing, and that every operation keeps the canonical
form. -/

namespace Sys2Proof.Machine

/-- Putting a byte in front leaves every other address alone. -/
theorem Memory.read_cons_ne {addr a' : Nat} {b : Byte} {m : List Host.Cell} (h : a' ≠ addr) :
    Memory.read (Memory.cons addr b m) a' = Memory.read m a' := by
  unfold Memory.cons
  split
  · rfl
  · simp [Memory.read, h]

/-- A write leaves every other address alone. -/
theorem Memory.read_write_ne {a' addr : Nat} (h : a' ≠ addr) (m : List Host.Cell) (b : Byte) :
    Memory.read (Memory.write m addr b) a' = Memory.read m a' := by
  induction m with
  | nil => exact Memory.read_cons_ne h
  | cons e m ih =>
    obtain ⟨a, x⟩ := e
    simp only [Memory.write]
    split
    · exact Memory.read_cons_ne h
    · split
      · subst addr
        rw [Memory.read_cons_ne h]
        simp [Memory.read, h]
      · simp only [Memory.read, ih]

/-- Below the first address a canonical memory reads the blank byte. -/
theorem Memory.read_below {m : List Host.Cell} {lo addr : Nat} (h : Memory.wfFrom lo m = true) (hlt : addr < lo) :
    Memory.read m addr = Config.blankByte := by
  induction m generalizing lo with
  | nil => rfl
  | cons e m ih =>
    obtain ⟨a, x⟩ := e
    simp only [Memory.wfFrom, Bool.and_eq_true, decide_eq_true_eq] at h
    rw [Memory.read, if_neg (by omega)]
    exact ih h.2 (by omega)

/-- A canonical memory stays canonical from a lower address on. -/
theorem Memory.wfFrom_mono {m : List Host.Cell} {lo lo' : Nat} (h : Memory.wfFrom lo m = true) (hle : lo' ≤ lo) :
    Memory.wfFrom lo' m = true := by
  cases m with
  | nil => rfl
  | cons e m =>
    simp only [Memory.wfFrom, Bool.and_eq_true, decide_eq_true_eq] at h ⊢
    exact ⟨⟨⟨by omega, h.1.1.2⟩, h.1.2⟩, h.2⟩

/-- Putting a byte in front of a memory that lies above it keeps the canonical form. -/
theorem Memory.wfFrom_cons {addr lo : Nat} {b : Byte} {m : List Host.Cell} (h : Memory.wfFrom (addr + 1) m = true)
    (hlo : lo ≤ addr) (hhi : addr < 2 ^ 32) : Memory.wfFrom lo (Memory.cons addr b m) = true := by
  unfold Memory.cons
  split
  · exact Memory.wfFrom_mono h (by omega)
  · simp_all [Memory.wfFrom]

/-- A write below 2^32 keeps the canonical form. -/
theorem Memory.wfFrom_write {m : List Host.Cell} {lo addr : Nat} {b : Byte} (h : Memory.wfFrom lo m = true)
    (hlo : lo ≤ addr) (hhi : addr < 2 ^ 32) : Memory.wfFrom lo (Memory.write m addr b) = true := by
  induction m generalizing lo with
  | nil => exact Memory.wfFrom_cons rfl hlo hhi
  | cons e m ih =>
    obtain ⟨a, x⟩ := e
    simp only [Memory.wfFrom, Bool.and_eq_true, decide_eq_true_eq] at h
    simp only [Memory.write]
    split
    · refine Memory.wfFrom_cons ?_ hlo hhi
      simp only [Memory.wfFrom, Bool.and_eq_true, decide_eq_true_eq]
      exact ⟨⟨⟨by omega, h.1.1.2⟩, h.1.2⟩, h.2⟩
    · split
      · exact Memory.wfFrom_cons (by subst addr; exact h.2) hlo hhi
      · simp only [Memory.wfFrom, Bool.and_eq_true, decide_eq_true_eq]
        exact ⟨h.1, ih h.2 (by omega)⟩

/-- A byte written to a canonical memory is read back. -/
theorem Memory.read_write_self {m : List Host.Cell} {lo : Nat} (addr : Nat) (b : Byte)
    (h : Memory.wfFrom lo m = true) : Memory.read (Memory.write m addr b) addr = b := by
  have hcons : ∀ m', Memory.read m' addr = Config.blankByte → Memory.read (Memory.cons addr b m') addr = b := by
    intro m' hm
    unfold Memory.cons
    split
    · simp_all
    · simp [Memory.read]
  induction m generalizing lo with
  | nil => exact hcons [] rfl
  | cons e m ih =>
    obtain ⟨a, x⟩ := e
    have h' := h
    simp only [Memory.wfFrom, Bool.and_eq_true, decide_eq_true_eq] at h
    simp only [Memory.write]
    split
    · refine hcons _ ?_
      rw [Memory.read, if_neg (by omega)]
      exact Memory.read_below h.2 (by omega)
    · split
      · exact hcons _ (Memory.read_below h.2 (by omega))
      · rename_i hne
        rw [Memory.read, if_neg hne]
        exact ih h.2

/-- A write keeps the canonical form. -/
theorem Memory.wf_write {m : List Host.Cell} {addr : Nat} {b : Byte} (h : Memory.wf m = true) (hhi : addr < 2 ^ 32) :
    Memory.wf (Memory.write m addr b) = true := Memory.wfFrom_write h (Nat.zero_le _) hhi

/-- A store of n bytes that ends below 2^32 keeps the canonical form. -/
theorem Memory.wf_store {m : List Host.Cell} {addr n v : Nat} (h : Memory.wf m = true) (hhi : addr + n ≤ 2 ^ 32) :
    Memory.wf (Memory.store m addr n v) = true := by
  induction n generalizing m addr v with
  | zero => exact h
  | succ n ih => exact ih (Memory.wf_write h (by omega)) (by omega)

/-- A store of n bytes leaves every address outside them alone. -/
theorem Memory.read_store_outside {m : List Host.Cell} {addr n v a' : Nat} (h : a' < addr ∨ addr + n ≤ a') :
    Memory.read (Memory.store m addr n v) a' = Memory.read m a' := by
  induction n generalizing m addr v with
  | zero => rfl
  | succ n ih =>
    rw [Memory.store, ih (by omega), Memory.read_write_ne (by omega)]

/-- A store of n bytes to a canonical memory is loaded back. -/
theorem Memory.load_store {m : List Host.Cell} {addr n v : Nat} (h : Memory.wf m = true) (hhi : addr + n ≤ 2 ^ 32) :
    Memory.load (Memory.store m addr n v) addr n = v % 256 ^ n := by
  induction n generalizing m addr v with
  | zero => simp [Memory.load, Nat.mod_one]
  | succ n ih =>
    rw [Memory.store, Memory.load, ih (Memory.wf_write h (by omega)) (by omega),
      Memory.read_store_outside (Or.inl (Nat.lt_succ_self _)), Memory.read_write_self addr _ h, Nat.pow_succ']
    rw [BitVec.toNat_ofNat, Nat.mod_mul]

/-- Storing bytes one after the other keeps the canonical form. -/
theorem Memory.wf_storeBytes {m : List Host.Cell} {addr : Nat} {bs : List Byte} (h : Memory.wf m = true)
    (hhi : addr + bs.length ≤ 2 ^ 32) : Memory.wf (Memory.storeBytes m addr bs) = true := by
  induction bs generalizing m addr with
  | nil => exact h
  | cons b bs ih =>
    simp only [List.length_cons] at hhi
    exact ih (Memory.wf_write h (by omega)) (by omega)

end Sys2Proof.Machine
end

