-- ==== Sys2Proof/Laws/State.lean ====
section
/-! SUPPORT. One lemma per field per update of the state, each true by unfolding that update alone, so that no later
proof unfolds a record update. A field the update does not touch keeps its value; a touched field whose new value is a short expression has
it stated here. -/

namespace Sys2Proof.Machine

variable (s : State)

@[simp] theorem State.setLo_r (n : LowReg) (v : Word) : (s.setLo n v).r = s.r.setIfInBounds n.toNat v := rfl
@[simp] theorem State.setLo_msp (n : LowReg) (v : Word) : (s.setLo n v).msp = s.msp := rfl
@[simp] theorem State.setLo_psp (n : LowReg) (v : Word) : (s.setLo n v).psp = s.psp := rfl
@[simp] theorem State.setLo_lr (n : LowReg) (v : Word) : (s.setLo n v).lr = s.lr := rfl
@[simp] theorem State.setLo_pc (n : LowReg) (v : Word) : (s.setLo n v).pc = s.pc := rfl
@[simp] theorem State.setLo_flags (n : LowReg) (v : Word) : (s.setLo n v).flags = s.flags := rfl
@[simp] theorem State.setLo_thumb (n : LowReg) (v : Word) : (s.setLo n v).thumb = s.thumb := rfl
@[simp] theorem State.setLo_ipsr (n : LowReg) (v : Word) : (s.setLo n v).ipsr = s.ipsr := rfl
@[simp] theorem State.setLo_primask (n : LowReg) (v : Word) : (s.setLo n v).primask = s.primask := rfl
@[simp] theorem State.setLo_spsel (n : LowReg) (v : Word) : (s.setLo n v).spsel = s.spsel := rfl
@[simp] theorem State.setLo_event (n : LowReg) (v : Word) : (s.setLo n v).event = s.event := rfl
@[simp] theorem State.setLo_run (n : LowReg) (v : Word) : (s.setLo n v).run = s.run := rfl
@[simp] theorem State.setLo_nvic (n : LowReg) (v : Word) : (s.setLo n v).nvic = s.nvic := rfl
@[simp] theorem State.setLo_scr (n : LowReg) (v : Word) : (s.setLo n v).scr = s.scr := rfl
@[simp] theorem State.setLo_sysTick (n : LowReg) (v : Word) : (s.setLo n v).sysTick = s.sysTick := rfl
@[simp] theorem State.setLo_resetReq (n : LowReg) (v : Word) : (s.setLo n v).resetReq = s.resetReq := rfl
@[simp] theorem State.setLo_mem (n : LowReg) (v : Word) : (s.setLo n v).mem = s.mem := rfl
@[simp] theorem State.setLo_platform (n : LowReg) (v : Word) : (s.setLo n v).platform = s.platform := rfl
@[simp] theorem State.setLo_env (n : LowReg) (v : Word) : (s.setLo n v).env = s.env := rfl
@[simp] theorem State.setLo_future (n : LowReg) (v : Word) : (s.setLo n v).future = s.future := rfl
@[simp] theorem State.setLo_answers (n : LowReg) (v : Word) : (s.setLo n v).answers = s.answers := rfl
@[simp] theorem State.setLo_free (n : LowReg) (v : Word) : (s.setLo n v).free = s.free := rfl

@[simp] theorem State.setX_r (n : Reg) (v : Word) : (s.setX n v).r = s.r.setIfInBounds n.toNat v := rfl
@[simp] theorem State.setX_msp (n : Reg) (v : Word) : (s.setX n v).msp = if n = 13 ∧ s.usesPsp = false then wordAligned v else s.msp := rfl
@[simp] theorem State.setX_psp (n : Reg) (v : Word) : (s.setX n v).psp = if n = 13 ∧ s.usesPsp = true then wordAligned v else s.psp := rfl
@[simp] theorem State.setX_lr (n : Reg) (v : Word) : (s.setX n v).lr = if n = 14 then v else s.lr := rfl
@[simp] theorem State.setX_pc (n : Reg) (v : Word) : (s.setX n v).pc = s.pc := rfl
@[simp] theorem State.setX_flags (n : Reg) (v : Word) : (s.setX n v).flags = s.flags := rfl
@[simp] theorem State.setX_thumb (n : Reg) (v : Word) : (s.setX n v).thumb = s.thumb := rfl
@[simp] theorem State.setX_ipsr (n : Reg) (v : Word) : (s.setX n v).ipsr = s.ipsr := rfl
@[simp] theorem State.setX_primask (n : Reg) (v : Word) : (s.setX n v).primask = s.primask := rfl
@[simp] theorem State.setX_spsel (n : Reg) (v : Word) : (s.setX n v).spsel = s.spsel := rfl
@[simp] theorem State.setX_event (n : Reg) (v : Word) : (s.setX n v).event = s.event := rfl
@[simp] theorem State.setX_run (n : Reg) (v : Word) : (s.setX n v).run = s.run := rfl
@[simp] theorem State.setX_nvic (n : Reg) (v : Word) : (s.setX n v).nvic = s.nvic := rfl
@[simp] theorem State.setX_scr (n : Reg) (v : Word) : (s.setX n v).scr = s.scr := rfl
@[simp] theorem State.setX_sysTick (n : Reg) (v : Word) : (s.setX n v).sysTick = s.sysTick := rfl
@[simp] theorem State.setX_resetReq (n : Reg) (v : Word) : (s.setX n v).resetReq = s.resetReq := rfl
@[simp] theorem State.setX_mem (n : Reg) (v : Word) : (s.setX n v).mem = s.mem := rfl
@[simp] theorem State.setX_platform (n : Reg) (v : Word) : (s.setX n v).platform = s.platform := rfl
@[simp] theorem State.setX_env (n : Reg) (v : Word) : (s.setX n v).env = s.env := rfl
@[simp] theorem State.setX_future (n : Reg) (v : Word) : (s.setX n v).future = s.future := rfl
@[simp] theorem State.setX_answers (n : Reg) (v : Word) : (s.setX n v).answers = s.answers := rfl
@[simp] theorem State.setX_free (n : Reg) (v : Word) : (s.setX n v).free = s.free := rfl

@[simp] theorem State.setSp_r (v : Word) : (s.setSp v).r = s.r := rfl
@[simp] theorem State.setSp_msp (v : Word) : (s.setSp v).msp = if s.usesPsp then s.msp else wordAligned v := rfl
@[simp] theorem State.setSp_psp (v : Word) : (s.setSp v).psp = if s.usesPsp then wordAligned v else s.psp := rfl
@[simp] theorem State.setSp_lr (v : Word) : (s.setSp v).lr = s.lr := rfl
@[simp] theorem State.setSp_pc (v : Word) : (s.setSp v).pc = s.pc := rfl
@[simp] theorem State.setSp_flags (v : Word) : (s.setSp v).flags = s.flags := rfl
@[simp] theorem State.setSp_thumb (v : Word) : (s.setSp v).thumb = s.thumb := rfl
@[simp] theorem State.setSp_ipsr (v : Word) : (s.setSp v).ipsr = s.ipsr := rfl
@[simp] theorem State.setSp_primask (v : Word) : (s.setSp v).primask = s.primask := rfl
@[simp] theorem State.setSp_spsel (v : Word) : (s.setSp v).spsel = s.spsel := rfl
@[simp] theorem State.setSp_event (v : Word) : (s.setSp v).event = s.event := rfl
@[simp] theorem State.setSp_run (v : Word) : (s.setSp v).run = s.run := rfl
@[simp] theorem State.setSp_nvic (v : Word) : (s.setSp v).nvic = s.nvic := rfl
@[simp] theorem State.setSp_scr (v : Word) : (s.setSp v).scr = s.scr := rfl
@[simp] theorem State.setSp_sysTick (v : Word) : (s.setSp v).sysTick = s.sysTick := rfl
@[simp] theorem State.setSp_resetReq (v : Word) : (s.setSp v).resetReq = s.resetReq := rfl
@[simp] theorem State.setSp_mem (v : Word) : (s.setSp v).mem = s.mem := rfl
@[simp] theorem State.setSp_platform (v : Word) : (s.setSp v).platform = s.platform := rfl
@[simp] theorem State.setSp_env (v : Word) : (s.setSp v).env = s.env := rfl
@[simp] theorem State.setSp_future (v : Word) : (s.setSp v).future = s.future := rfl
@[simp] theorem State.setSp_answers (v : Word) : (s.setSp v).answers = s.answers := rfl
@[simp] theorem State.setSp_free (v : Word) : (s.setSp v).free = s.free := rfl

@[simp] theorem State.setLr_r (v : Word) : (s.setLr v).r = s.r := rfl
@[simp] theorem State.setLr_msp (v : Word) : (s.setLr v).msp = s.msp := rfl
@[simp] theorem State.setLr_psp (v : Word) : (s.setLr v).psp = s.psp := rfl
@[simp] theorem State.setLr_lr (v : Word) : (s.setLr v).lr = v := rfl
@[simp] theorem State.setLr_pc (v : Word) : (s.setLr v).pc = s.pc := rfl
@[simp] theorem State.setLr_flags (v : Word) : (s.setLr v).flags = s.flags := rfl
@[simp] theorem State.setLr_thumb (v : Word) : (s.setLr v).thumb = s.thumb := rfl
@[simp] theorem State.setLr_ipsr (v : Word) : (s.setLr v).ipsr = s.ipsr := rfl
@[simp] theorem State.setLr_primask (v : Word) : (s.setLr v).primask = s.primask := rfl
@[simp] theorem State.setLr_spsel (v : Word) : (s.setLr v).spsel = s.spsel := rfl
@[simp] theorem State.setLr_event (v : Word) : (s.setLr v).event = s.event := rfl
@[simp] theorem State.setLr_run (v : Word) : (s.setLr v).run = s.run := rfl
@[simp] theorem State.setLr_nvic (v : Word) : (s.setLr v).nvic = s.nvic := rfl
@[simp] theorem State.setLr_scr (v : Word) : (s.setLr v).scr = s.scr := rfl
@[simp] theorem State.setLr_sysTick (v : Word) : (s.setLr v).sysTick = s.sysTick := rfl
@[simp] theorem State.setLr_resetReq (v : Word) : (s.setLr v).resetReq = s.resetReq := rfl
@[simp] theorem State.setLr_mem (v : Word) : (s.setLr v).mem = s.mem := rfl
@[simp] theorem State.setLr_platform (v : Word) : (s.setLr v).platform = s.platform := rfl
@[simp] theorem State.setLr_env (v : Word) : (s.setLr v).env = s.env := rfl
@[simp] theorem State.setLr_future (v : Word) : (s.setLr v).future = s.future := rfl
@[simp] theorem State.setLr_answers (v : Word) : (s.setLr v).answers = s.answers := rfl
@[simp] theorem State.setLr_free (v : Word) : (s.setLr v).free = s.free := rfl

@[simp] theorem State.advance_r (k : Nat) : (s.advance k).r = s.r := rfl
@[simp] theorem State.advance_msp (k : Nat) : (s.advance k).msp = s.msp := rfl
@[simp] theorem State.advance_psp (k : Nat) : (s.advance k).psp = s.psp := rfl
@[simp] theorem State.advance_lr (k : Nat) : (s.advance k).lr = s.lr := rfl
@[simp] theorem State.advance_pc (k : Nat) : (s.advance k).pc = s.pc + BitVec.ofNat 32 k := rfl
@[simp] theorem State.advance_flags (k : Nat) : (s.advance k).flags = s.flags := rfl
@[simp] theorem State.advance_thumb (k : Nat) : (s.advance k).thumb = s.thumb := rfl
@[simp] theorem State.advance_ipsr (k : Nat) : (s.advance k).ipsr = s.ipsr := rfl
@[simp] theorem State.advance_primask (k : Nat) : (s.advance k).primask = s.primask := rfl
@[simp] theorem State.advance_spsel (k : Nat) : (s.advance k).spsel = s.spsel := rfl
@[simp] theorem State.advance_event (k : Nat) : (s.advance k).event = s.event := rfl
@[simp] theorem State.advance_run (k : Nat) : (s.advance k).run = s.run := rfl
@[simp] theorem State.advance_nvic (k : Nat) : (s.advance k).nvic = s.nvic := rfl
@[simp] theorem State.advance_scr (k : Nat) : (s.advance k).scr = s.scr := rfl
@[simp] theorem State.advance_sysTick (k : Nat) : (s.advance k).sysTick = s.sysTick := rfl
@[simp] theorem State.advance_resetReq (k : Nat) : (s.advance k).resetReq = s.resetReq := rfl
@[simp] theorem State.advance_mem (k : Nat) : (s.advance k).mem = s.mem := rfl
@[simp] theorem State.advance_platform (k : Nat) : (s.advance k).platform = s.platform := rfl
@[simp] theorem State.advance_env (k : Nat) : (s.advance k).env = s.env := rfl
@[simp] theorem State.advance_future (k : Nat) : (s.advance k).future = s.future := rfl
@[simp] theorem State.advance_answers (k : Nat) : (s.advance k).answers = s.answers := rfl
@[simp] theorem State.advance_free (k : Nat) : (s.advance k).free = s.free := rfl

@[simp] theorem State.branchTo_r (a : Word) : (s.branchTo a).r = s.r := rfl
@[simp] theorem State.branchTo_msp (a : Word) : (s.branchTo a).msp = s.msp := rfl
@[simp] theorem State.branchTo_psp (a : Word) : (s.branchTo a).psp = s.psp := rfl
@[simp] theorem State.branchTo_lr (a : Word) : (s.branchTo a).lr = s.lr := rfl
@[simp] theorem State.branchTo_pc (a : Word) : (s.branchTo a).pc = halfAligned a := rfl
@[simp] theorem State.branchTo_flags (a : Word) : (s.branchTo a).flags = s.flags := rfl
@[simp] theorem State.branchTo_thumb (a : Word) : (s.branchTo a).thumb = s.thumb := rfl
@[simp] theorem State.branchTo_ipsr (a : Word) : (s.branchTo a).ipsr = s.ipsr := rfl
@[simp] theorem State.branchTo_primask (a : Word) : (s.branchTo a).primask = s.primask := rfl
@[simp] theorem State.branchTo_spsel (a : Word) : (s.branchTo a).spsel = s.spsel := rfl
@[simp] theorem State.branchTo_event (a : Word) : (s.branchTo a).event = s.event := rfl
@[simp] theorem State.branchTo_run (a : Word) : (s.branchTo a).run = s.run := rfl
@[simp] theorem State.branchTo_nvic (a : Word) : (s.branchTo a).nvic = s.nvic := rfl
@[simp] theorem State.branchTo_scr (a : Word) : (s.branchTo a).scr = s.scr := rfl
@[simp] theorem State.branchTo_sysTick (a : Word) : (s.branchTo a).sysTick = s.sysTick := rfl
@[simp] theorem State.branchTo_resetReq (a : Word) : (s.branchTo a).resetReq = s.resetReq := rfl
@[simp] theorem State.branchTo_mem (a : Word) : (s.branchTo a).mem = s.mem := rfl
@[simp] theorem State.branchTo_platform (a : Word) : (s.branchTo a).platform = s.platform := rfl
@[simp] theorem State.branchTo_env (a : Word) : (s.branchTo a).env = s.env := rfl
@[simp] theorem State.branchTo_future (a : Word) : (s.branchTo a).future = s.future := rfl
@[simp] theorem State.branchTo_answers (a : Word) : (s.branchTo a).answers = s.answers := rfl
@[simp] theorem State.branchTo_free (a : Word) : (s.branchTo a).free = s.free := rfl

@[simp] theorem State.interwork_r (a : Word) : (s.interwork a).r = s.r := rfl
@[simp] theorem State.interwork_msp (a : Word) : (s.interwork a).msp = s.msp := rfl
@[simp] theorem State.interwork_psp (a : Word) : (s.interwork a).psp = s.psp := rfl
@[simp] theorem State.interwork_lr (a : Word) : (s.interwork a).lr = s.lr := rfl
@[simp] theorem State.interwork_pc (a : Word) : (s.interwork a).pc = halfAligned a := rfl
@[simp] theorem State.interwork_flags (a : Word) : (s.interwork a).flags = s.flags := rfl
@[simp] theorem State.interwork_thumb (a : Word) : (s.interwork a).thumb = a.getLsbD 0 := rfl
@[simp] theorem State.interwork_ipsr (a : Word) : (s.interwork a).ipsr = s.ipsr := rfl
@[simp] theorem State.interwork_primask (a : Word) : (s.interwork a).primask = s.primask := rfl
@[simp] theorem State.interwork_spsel (a : Word) : (s.interwork a).spsel = s.spsel := rfl
@[simp] theorem State.interwork_event (a : Word) : (s.interwork a).event = s.event := rfl
@[simp] theorem State.interwork_run (a : Word) : (s.interwork a).run = s.run := rfl
@[simp] theorem State.interwork_nvic (a : Word) : (s.interwork a).nvic = s.nvic := rfl
@[simp] theorem State.interwork_scr (a : Word) : (s.interwork a).scr = s.scr := rfl
@[simp] theorem State.interwork_sysTick (a : Word) : (s.interwork a).sysTick = s.sysTick := rfl
@[simp] theorem State.interwork_resetReq (a : Word) : (s.interwork a).resetReq = s.resetReq := rfl
@[simp] theorem State.interwork_mem (a : Word) : (s.interwork a).mem = s.mem := rfl
@[simp] theorem State.interwork_platform (a : Word) : (s.interwork a).platform = s.platform := rfl
@[simp] theorem State.interwork_env (a : Word) : (s.interwork a).env = s.env := rfl
@[simp] theorem State.interwork_future (a : Word) : (s.interwork a).future = s.future := rfl
@[simp] theorem State.interwork_answers (a : Word) : (s.interwork a).answers = s.answers := rfl
@[simp] theorem State.interwork_free (a : Word) : (s.interwork a).free = s.free := rfl

@[simp] theorem State.putLo_r (n : LowReg) (v : Word) : (s.putLo n v).r = s.r.setIfInBounds n.toNat v := rfl
@[simp] theorem State.putLo_msp (n : LowReg) (v : Word) : (s.putLo n v).msp = s.msp := rfl
@[simp] theorem State.putLo_psp (n : LowReg) (v : Word) : (s.putLo n v).psp = s.psp := rfl
@[simp] theorem State.putLo_lr (n : LowReg) (v : Word) : (s.putLo n v).lr = s.lr := rfl
@[simp] theorem State.putLo_pc (n : LowReg) (v : Word) : (s.putLo n v).pc = s.pc + 2 := rfl
@[simp] theorem State.putLo_flags (n : LowReg) (v : Word) : (s.putLo n v).flags = s.flags := rfl
@[simp] theorem State.putLo_thumb (n : LowReg) (v : Word) : (s.putLo n v).thumb = s.thumb := rfl
@[simp] theorem State.putLo_ipsr (n : LowReg) (v : Word) : (s.putLo n v).ipsr = s.ipsr := rfl
@[simp] theorem State.putLo_primask (n : LowReg) (v : Word) : (s.putLo n v).primask = s.primask := rfl
@[simp] theorem State.putLo_spsel (n : LowReg) (v : Word) : (s.putLo n v).spsel = s.spsel := rfl
@[simp] theorem State.putLo_event (n : LowReg) (v : Word) : (s.putLo n v).event = s.event := rfl
@[simp] theorem State.putLo_run (n : LowReg) (v : Word) : (s.putLo n v).run = s.run := rfl
@[simp] theorem State.putLo_nvic (n : LowReg) (v : Word) : (s.putLo n v).nvic = s.nvic := rfl
@[simp] theorem State.putLo_scr (n : LowReg) (v : Word) : (s.putLo n v).scr = s.scr := rfl
@[simp] theorem State.putLo_sysTick (n : LowReg) (v : Word) : (s.putLo n v).sysTick = s.sysTick := rfl
@[simp] theorem State.putLo_resetReq (n : LowReg) (v : Word) : (s.putLo n v).resetReq = s.resetReq := rfl
@[simp] theorem State.putLo_mem (n : LowReg) (v : Word) : (s.putLo n v).mem = s.mem := rfl
@[simp] theorem State.putLo_platform (n : LowReg) (v : Word) : (s.putLo n v).platform = s.platform := rfl
@[simp] theorem State.putLo_env (n : LowReg) (v : Word) : (s.putLo n v).env = s.env := rfl
@[simp] theorem State.putLo_future (n : LowReg) (v : Word) : (s.putLo n v).future = s.future := rfl
@[simp] theorem State.putLo_answers (n : LowReg) (v : Word) : (s.putLo n v).answers = s.answers := rfl
@[simp] theorem State.putLo_free (n : LowReg) (v : Word) : (s.putLo n v).free = s.free := rfl

@[simp] theorem State.putNZ_r (n : LowReg) (v : Word) : (s.putNZ n v).r = s.r.setIfInBounds n.toNat v := rfl
@[simp] theorem State.putNZ_msp (n : LowReg) (v : Word) : (s.putNZ n v).msp = s.msp := rfl
@[simp] theorem State.putNZ_psp (n : LowReg) (v : Word) : (s.putNZ n v).psp = s.psp := rfl
@[simp] theorem State.putNZ_lr (n : LowReg) (v : Word) : (s.putNZ n v).lr = s.lr := rfl
@[simp] theorem State.putNZ_pc (n : LowReg) (v : Word) : (s.putNZ n v).pc = s.pc + 2 := rfl
@[simp] theorem State.putNZ_flags (n : LowReg) (v : Word) : (s.putNZ n v).flags = s.flags.setNZ v := rfl
@[simp] theorem State.putNZ_thumb (n : LowReg) (v : Word) : (s.putNZ n v).thumb = s.thumb := rfl
@[simp] theorem State.putNZ_ipsr (n : LowReg) (v : Word) : (s.putNZ n v).ipsr = s.ipsr := rfl
@[simp] theorem State.putNZ_primask (n : LowReg) (v : Word) : (s.putNZ n v).primask = s.primask := rfl
@[simp] theorem State.putNZ_spsel (n : LowReg) (v : Word) : (s.putNZ n v).spsel = s.spsel := rfl
@[simp] theorem State.putNZ_event (n : LowReg) (v : Word) : (s.putNZ n v).event = s.event := rfl
@[simp] theorem State.putNZ_run (n : LowReg) (v : Word) : (s.putNZ n v).run = s.run := rfl
@[simp] theorem State.putNZ_nvic (n : LowReg) (v : Word) : (s.putNZ n v).nvic = s.nvic := rfl
@[simp] theorem State.putNZ_scr (n : LowReg) (v : Word) : (s.putNZ n v).scr = s.scr := rfl
@[simp] theorem State.putNZ_sysTick (n : LowReg) (v : Word) : (s.putNZ n v).sysTick = s.sysTick := rfl
@[simp] theorem State.putNZ_resetReq (n : LowReg) (v : Word) : (s.putNZ n v).resetReq = s.resetReq := rfl
@[simp] theorem State.putNZ_mem (n : LowReg) (v : Word) : (s.putNZ n v).mem = s.mem := rfl
@[simp] theorem State.putNZ_platform (n : LowReg) (v : Word) : (s.putNZ n v).platform = s.platform := rfl
@[simp] theorem State.putNZ_env (n : LowReg) (v : Word) : (s.putNZ n v).env = s.env := rfl
@[simp] theorem State.putNZ_future (n : LowReg) (v : Word) : (s.putNZ n v).future = s.future := rfl
@[simp] theorem State.putNZ_answers (n : LowReg) (v : Word) : (s.putNZ n v).answers = s.answers := rfl
@[simp] theorem State.putNZ_free (n : LowReg) (v : Word) : (s.putNZ n v).free = s.free := rfl

@[simp] theorem State.putSum_r (n : LowReg) (a : Sum) : (s.putSum n a).r = s.r.setIfInBounds n.toNat a.value := rfl
@[simp] theorem State.putSum_msp (n : LowReg) (a : Sum) : (s.putSum n a).msp = s.msp := rfl
@[simp] theorem State.putSum_psp (n : LowReg) (a : Sum) : (s.putSum n a).psp = s.psp := rfl
@[simp] theorem State.putSum_lr (n : LowReg) (a : Sum) : (s.putSum n a).lr = s.lr := rfl
@[simp] theorem State.putSum_pc (n : LowReg) (a : Sum) : (s.putSum n a).pc = s.pc + 2 := rfl
@[simp] theorem State.putSum_flags (n : LowReg) (a : Sum) : (s.putSum n a).flags = Flags.ofSum a := rfl
@[simp] theorem State.putSum_thumb (n : LowReg) (a : Sum) : (s.putSum n a).thumb = s.thumb := rfl
@[simp] theorem State.putSum_ipsr (n : LowReg) (a : Sum) : (s.putSum n a).ipsr = s.ipsr := rfl
@[simp] theorem State.putSum_primask (n : LowReg) (a : Sum) : (s.putSum n a).primask = s.primask := rfl
@[simp] theorem State.putSum_spsel (n : LowReg) (a : Sum) : (s.putSum n a).spsel = s.spsel := rfl
@[simp] theorem State.putSum_event (n : LowReg) (a : Sum) : (s.putSum n a).event = s.event := rfl
@[simp] theorem State.putSum_run (n : LowReg) (a : Sum) : (s.putSum n a).run = s.run := rfl
@[simp] theorem State.putSum_nvic (n : LowReg) (a : Sum) : (s.putSum n a).nvic = s.nvic := rfl
@[simp] theorem State.putSum_scr (n : LowReg) (a : Sum) : (s.putSum n a).scr = s.scr := rfl
@[simp] theorem State.putSum_sysTick (n : LowReg) (a : Sum) : (s.putSum n a).sysTick = s.sysTick := rfl
@[simp] theorem State.putSum_resetReq (n : LowReg) (a : Sum) : (s.putSum n a).resetReq = s.resetReq := rfl
@[simp] theorem State.putSum_mem (n : LowReg) (a : Sum) : (s.putSum n a).mem = s.mem := rfl
@[simp] theorem State.putSum_platform (n : LowReg) (a : Sum) : (s.putSum n a).platform = s.platform := rfl
@[simp] theorem State.putSum_env (n : LowReg) (a : Sum) : (s.putSum n a).env = s.env := rfl
@[simp] theorem State.putSum_future (n : LowReg) (a : Sum) : (s.putSum n a).future = s.future := rfl
@[simp] theorem State.putSum_answers (n : LowReg) (a : Sum) : (s.putSum n a).answers = s.answers := rfl
@[simp] theorem State.putSum_free (n : LowReg) (a : Sum) : (s.putSum n a).free = s.free := rfl

@[simp] theorem State.putShifted_r (n : LowReg) (a : Shifted) : (s.putShifted n a).r = s.r.setIfInBounds n.toNat a.value := rfl
@[simp] theorem State.putShifted_msp (n : LowReg) (a : Shifted) : (s.putShifted n a).msp = s.msp := rfl
@[simp] theorem State.putShifted_psp (n : LowReg) (a : Shifted) : (s.putShifted n a).psp = s.psp := rfl
@[simp] theorem State.putShifted_lr (n : LowReg) (a : Shifted) : (s.putShifted n a).lr = s.lr := rfl
@[simp] theorem State.putShifted_pc (n : LowReg) (a : Shifted) : (s.putShifted n a).pc = s.pc + 2 := rfl
@[simp] theorem State.putShifted_flags (n : LowReg) (a : Shifted) : (s.putShifted n a).flags = s.flags.setNZC a := rfl
@[simp] theorem State.putShifted_thumb (n : LowReg) (a : Shifted) : (s.putShifted n a).thumb = s.thumb := rfl
@[simp] theorem State.putShifted_ipsr (n : LowReg) (a : Shifted) : (s.putShifted n a).ipsr = s.ipsr := rfl
@[simp] theorem State.putShifted_primask (n : LowReg) (a : Shifted) : (s.putShifted n a).primask = s.primask := rfl
@[simp] theorem State.putShifted_spsel (n : LowReg) (a : Shifted) : (s.putShifted n a).spsel = s.spsel := rfl
@[simp] theorem State.putShifted_event (n : LowReg) (a : Shifted) : (s.putShifted n a).event = s.event := rfl
@[simp] theorem State.putShifted_run (n : LowReg) (a : Shifted) : (s.putShifted n a).run = s.run := rfl
@[simp] theorem State.putShifted_nvic (n : LowReg) (a : Shifted) : (s.putShifted n a).nvic = s.nvic := rfl
@[simp] theorem State.putShifted_scr (n : LowReg) (a : Shifted) : (s.putShifted n a).scr = s.scr := rfl
@[simp] theorem State.putShifted_sysTick (n : LowReg) (a : Shifted) : (s.putShifted n a).sysTick = s.sysTick := rfl
@[simp] theorem State.putShifted_resetReq (n : LowReg) (a : Shifted) : (s.putShifted n a).resetReq = s.resetReq := rfl
@[simp] theorem State.putShifted_mem (n : LowReg) (a : Shifted) : (s.putShifted n a).mem = s.mem := rfl
@[simp] theorem State.putShifted_platform (n : LowReg) (a : Shifted) : (s.putShifted n a).platform = s.platform := rfl
@[simp] theorem State.putShifted_env (n : LowReg) (a : Shifted) : (s.putShifted n a).env = s.env := rfl
@[simp] theorem State.putShifted_future (n : LowReg) (a : Shifted) : (s.putShifted n a).future = s.future := rfl
@[simp] theorem State.putShifted_answers (n : LowReg) (a : Shifted) : (s.putShifted n a).answers = s.answers := rfl
@[simp] theorem State.putShifted_free (n : LowReg) (a : Shifted) : (s.putShifted n a).free = s.free := rfl

@[simp] theorem State.compareSum_r (a : Sum) : (s.compareSum a).r = s.r := rfl
@[simp] theorem State.compareSum_msp (a : Sum) : (s.compareSum a).msp = s.msp := rfl
@[simp] theorem State.compareSum_psp (a : Sum) : (s.compareSum a).psp = s.psp := rfl
@[simp] theorem State.compareSum_lr (a : Sum) : (s.compareSum a).lr = s.lr := rfl
@[simp] theorem State.compareSum_pc (a : Sum) : (s.compareSum a).pc = s.pc + 2 := rfl
@[simp] theorem State.compareSum_flags (a : Sum) : (s.compareSum a).flags = Flags.ofSum a := rfl
@[simp] theorem State.compareSum_thumb (a : Sum) : (s.compareSum a).thumb = s.thumb := rfl
@[simp] theorem State.compareSum_ipsr (a : Sum) : (s.compareSum a).ipsr = s.ipsr := rfl
@[simp] theorem State.compareSum_primask (a : Sum) : (s.compareSum a).primask = s.primask := rfl
@[simp] theorem State.compareSum_spsel (a : Sum) : (s.compareSum a).spsel = s.spsel := rfl
@[simp] theorem State.compareSum_event (a : Sum) : (s.compareSum a).event = s.event := rfl
@[simp] theorem State.compareSum_run (a : Sum) : (s.compareSum a).run = s.run := rfl
@[simp] theorem State.compareSum_nvic (a : Sum) : (s.compareSum a).nvic = s.nvic := rfl
@[simp] theorem State.compareSum_scr (a : Sum) : (s.compareSum a).scr = s.scr := rfl
@[simp] theorem State.compareSum_sysTick (a : Sum) : (s.compareSum a).sysTick = s.sysTick := rfl
@[simp] theorem State.compareSum_resetReq (a : Sum) : (s.compareSum a).resetReq = s.resetReq := rfl
@[simp] theorem State.compareSum_mem (a : Sum) : (s.compareSum a).mem = s.mem := rfl
@[simp] theorem State.compareSum_platform (a : Sum) : (s.compareSum a).platform = s.platform := rfl
@[simp] theorem State.compareSum_env (a : Sum) : (s.compareSum a).env = s.env := rfl
@[simp] theorem State.compareSum_future (a : Sum) : (s.compareSum a).future = s.future := rfl
@[simp] theorem State.compareSum_answers (a : Sum) : (s.compareSum a).answers = s.answers := rfl
@[simp] theorem State.compareSum_free (a : Sum) : (s.compareSum a).free = s.free := rfl

@[simp] theorem State.drawn_r (k : Nat) : (s.drawn k).r = s.r := rfl
@[simp] theorem State.drawn_msp (k : Nat) : (s.drawn k).msp = s.msp := rfl
@[simp] theorem State.drawn_psp (k : Nat) : (s.drawn k).psp = s.psp := rfl
@[simp] theorem State.drawn_lr (k : Nat) : (s.drawn k).lr = s.lr := rfl
@[simp] theorem State.drawn_pc (k : Nat) : (s.drawn k).pc = s.pc := rfl
@[simp] theorem State.drawn_flags (k : Nat) : (s.drawn k).flags = s.flags := rfl
@[simp] theorem State.drawn_thumb (k : Nat) : (s.drawn k).thumb = s.thumb := rfl
@[simp] theorem State.drawn_ipsr (k : Nat) : (s.drawn k).ipsr = s.ipsr := rfl
@[simp] theorem State.drawn_primask (k : Nat) : (s.drawn k).primask = s.primask := rfl
@[simp] theorem State.drawn_spsel (k : Nat) : (s.drawn k).spsel = s.spsel := rfl
@[simp] theorem State.drawn_event (k : Nat) : (s.drawn k).event = s.event := rfl
@[simp] theorem State.drawn_run (k : Nat) : (s.drawn k).run = s.run := rfl
@[simp] theorem State.drawn_nvic (k : Nat) : (s.drawn k).nvic = s.nvic := rfl
@[simp] theorem State.drawn_scr (k : Nat) : (s.drawn k).scr = s.scr := rfl
@[simp] theorem State.drawn_sysTick (k : Nat) : (s.drawn k).sysTick = s.sysTick := rfl
@[simp] theorem State.drawn_resetReq (k : Nat) : (s.drawn k).resetReq = s.resetReq := rfl
@[simp] theorem State.drawn_mem (k : Nat) : (s.drawn k).mem = s.mem := rfl
@[simp] theorem State.drawn_platform (k : Nat) : (s.drawn k).platform = s.platform := rfl
@[simp] theorem State.drawn_env (k : Nat) : (s.drawn k).env = s.env := rfl
@[simp] theorem State.drawn_future (k : Nat) : (s.drawn k).future = s.future := rfl
@[simp] theorem State.drawn_answers (k : Nat) : (s.drawn k).answers = s.answers := rfl
@[simp] theorem State.drawn_free (k : Nat) : (s.drawn k).free = s.free + k := rfl

@[simp] theorem State.store_r (n : Nat) (a v : Word) : (s.store n a v).r = s.r := rfl
@[simp] theorem State.store_msp (n : Nat) (a v : Word) : (s.store n a v).msp = s.msp := rfl
@[simp] theorem State.store_psp (n : Nat) (a v : Word) : (s.store n a v).psp = s.psp := rfl
@[simp] theorem State.store_lr (n : Nat) (a v : Word) : (s.store n a v).lr = s.lr := rfl
@[simp] theorem State.store_pc (n : Nat) (a v : Word) : (s.store n a v).pc = s.pc := rfl
@[simp] theorem State.store_flags (n : Nat) (a v : Word) : (s.store n a v).flags = s.flags := rfl
@[simp] theorem State.store_thumb (n : Nat) (a v : Word) : (s.store n a v).thumb = s.thumb := rfl
@[simp] theorem State.store_ipsr (n : Nat) (a v : Word) : (s.store n a v).ipsr = s.ipsr := rfl
@[simp] theorem State.store_primask (n : Nat) (a v : Word) : (s.store n a v).primask = s.primask := rfl
@[simp] theorem State.store_spsel (n : Nat) (a v : Word) : (s.store n a v).spsel = s.spsel := rfl
@[simp] theorem State.store_event (n : Nat) (a v : Word) : (s.store n a v).event = s.event := rfl
@[simp] theorem State.store_run (n : Nat) (a v : Word) : (s.store n a v).run = s.run := rfl
@[simp] theorem State.store_nvic (n : Nat) (a v : Word) : (s.store n a v).nvic = s.nvic := rfl
@[simp] theorem State.store_scr (n : Nat) (a v : Word) : (s.store n a v).scr = s.scr := rfl
@[simp] theorem State.store_sysTick (n : Nat) (a v : Word) : (s.store n a v).sysTick = s.sysTick := rfl
@[simp] theorem State.store_resetReq (n : Nat) (a v : Word) : (s.store n a v).resetReq = s.resetReq := rfl
@[simp] theorem State.store_mem (n : Nat) (a v : Word) : (s.store n a v).mem = Memory.store s.mem a.toNat n v.toNat := rfl
@[simp] theorem State.store_platform (n : Nat) (a v : Word) : (s.store n a v).platform = s.platform := rfl
@[simp] theorem State.store_env (n : Nat) (a v : Word) : (s.store n a v).env = s.env := rfl
@[simp] theorem State.store_future (n : Nat) (a v : Word) : (s.store n a v).future = s.future := rfl
@[simp] theorem State.store_answers (n : Nat) (a v : Word) : (s.store n a v).answers = s.answers := rfl
@[simp] theorem State.store_free (n : Nat) (a v : Word) : (s.store n a v).free = s.free := rfl

@[simp] theorem State.clobber_r : s.clobber.r = clobberRegs s.r s.free := by dsimp only [State.clobber]
@[simp] theorem State.clobber_msp : s.clobber.msp = s.msp := by dsimp only [State.clobber]
@[simp] theorem State.clobber_psp : s.clobber.psp = s.psp := by dsimp only [State.clobber]
@[simp] theorem State.clobber_lr : s.clobber.lr = s.lr := by dsimp only [State.clobber]
@[simp] theorem State.clobber_pc : s.clobber.pc = s.pc := by dsimp only [State.clobber]
@[simp] theorem State.clobber_flags : s.clobber.flags = Flags.ofWord (Config.freeWord (s.free + 5)) := by dsimp only [State.clobber]
@[simp] theorem State.clobber_thumb : s.clobber.thumb = s.thumb := by dsimp only [State.clobber]
@[simp] theorem State.clobber_ipsr : s.clobber.ipsr = s.ipsr := by dsimp only [State.clobber]
@[simp] theorem State.clobber_primask : s.clobber.primask = s.primask := by dsimp only [State.clobber]
@[simp] theorem State.clobber_spsel : s.clobber.spsel = s.spsel := by dsimp only [State.clobber]
@[simp] theorem State.clobber_event : s.clobber.event = s.event := by dsimp only [State.clobber]
@[simp] theorem State.clobber_run : s.clobber.run = s.run := by dsimp only [State.clobber]
@[simp] theorem State.clobber_nvic : s.clobber.nvic = s.nvic := by dsimp only [State.clobber]
@[simp] theorem State.clobber_scr : s.clobber.scr = s.scr := by dsimp only [State.clobber]
@[simp] theorem State.clobber_sysTick : s.clobber.sysTick = s.sysTick := by dsimp only [State.clobber]
@[simp] theorem State.clobber_resetReq : s.clobber.resetReq = s.resetReq := by dsimp only [State.clobber]
@[simp] theorem State.clobber_mem : s.clobber.mem = s.mem := by dsimp only [State.clobber]
@[simp] theorem State.clobber_platform : s.clobber.platform = s.platform := by dsimp only [State.clobber]
@[simp] theorem State.clobber_env : s.clobber.env = s.env := by dsimp only [State.clobber]
@[simp] theorem State.clobber_future : s.clobber.future = s.future := by dsimp only [State.clobber]
@[simp] theorem State.clobber_answers : s.clobber.answers = s.answers := by dsimp only [State.clobber]
@[simp] theorem State.clobber_free : s.clobber.free = s.free + 6 := by dsimp only [State.clobber]

@[simp] theorem State.toVector_r (v : Word) : (s.toVector v).r = s.r := rfl
@[simp] theorem State.toVector_msp (v : Word) : (s.toVector v).msp = s.msp := rfl
@[simp] theorem State.toVector_psp (v : Word) : (s.toVector v).psp = s.psp := rfl
@[simp] theorem State.toVector_lr (v : Word) : (s.toVector v).lr = s.lr := rfl
@[simp] theorem State.toVector_pc (v : Word) : (s.toVector v).pc = halfAligned v := rfl
@[simp] theorem State.toVector_flags (v : Word) : (s.toVector v).flags = s.flags := rfl
@[simp] theorem State.toVector_thumb (v : Word) : (s.toVector v).thumb = v.getLsbD 0 := rfl
@[simp] theorem State.toVector_ipsr (v : Word) : (s.toVector v).ipsr = s.ipsr := rfl
@[simp] theorem State.toVector_primask (v : Word) : (s.toVector v).primask = s.primask := rfl
@[simp] theorem State.toVector_spsel (v : Word) : (s.toVector v).spsel = s.spsel := rfl
@[simp] theorem State.toVector_event (v : Word) : (s.toVector v).event = s.event := rfl
@[simp] theorem State.toVector_run (v : Word) : (s.toVector v).run = .running := rfl
@[simp] theorem State.toVector_nvic (v : Word) : (s.toVector v).nvic = s.nvic := rfl
@[simp] theorem State.toVector_scr (v : Word) : (s.toVector v).scr = s.scr := rfl
@[simp] theorem State.toVector_sysTick (v : Word) : (s.toVector v).sysTick = s.sysTick := rfl
@[simp] theorem State.toVector_resetReq (v : Word) : (s.toVector v).resetReq = s.resetReq := rfl
@[simp] theorem State.toVector_mem (v : Word) : (s.toVector v).mem = s.mem := rfl
@[simp] theorem State.toVector_platform (v : Word) : (s.toVector v).platform = s.platform := rfl
@[simp] theorem State.toVector_env (v : Word) : (s.toVector v).env = s.env := rfl
@[simp] theorem State.toVector_future (v : Word) : (s.toVector v).future = s.future := rfl
@[simp] theorem State.toVector_answers (v : Word) : (s.toVector v).answers = s.answers := rfl
@[simp] theorem State.toVector_free (v : Word) : (s.toVector v).free = s.free := rfl

@[simp] theorem State.enterMode_r (n : Nat) (l : Word) : (s.enterMode n l).r = s.r := rfl
@[simp] theorem State.enterMode_msp (n : Nat) (l : Word) : (s.enterMode n l).msp = s.msp := rfl
@[simp] theorem State.enterMode_psp (n : Nat) (l : Word) : (s.enterMode n l).psp = s.psp := rfl
@[simp] theorem State.enterMode_lr (n : Nat) (l : Word) : (s.enterMode n l).lr = l := rfl
@[simp] theorem State.enterMode_pc (n : Nat) (l : Word) : (s.enterMode n l).pc = s.pc := rfl
@[simp] theorem State.enterMode_flags (n : Nat) (l : Word) : (s.enterMode n l).flags = s.flags := rfl
@[simp] theorem State.enterMode_thumb (n : Nat) (l : Word) : (s.enterMode n l).thumb = s.thumb := rfl
@[simp] theorem State.enterMode_ipsr (n : Nat) (l : Word) : (s.enterMode n l).ipsr = BitVec.ofNat 6 n := rfl
@[simp] theorem State.enterMode_primask (n : Nat) (l : Word) : (s.enterMode n l).primask = s.primask := rfl
@[simp] theorem State.enterMode_spsel (n : Nat) (l : Word) : (s.enterMode n l).spsel = false := rfl
@[simp] theorem State.enterMode_event (n : Nat) (l : Word) : (s.enterMode n l).event = s.event := rfl
@[simp] theorem State.enterMode_run (n : Nat) (l : Word) : (s.enterMode n l).run = s.run := rfl
@[simp] theorem State.enterMode_nvic (n : Nat) (l : Word) : (s.enterMode n l).nvic = s.nvic.activate n := rfl
@[simp] theorem State.enterMode_scr (n : Nat) (l : Word) : (s.enterMode n l).scr = s.scr := rfl
@[simp] theorem State.enterMode_sysTick (n : Nat) (l : Word) : (s.enterMode n l).sysTick = s.sysTick := rfl
@[simp] theorem State.enterMode_resetReq (n : Nat) (l : Word) : (s.enterMode n l).resetReq = s.resetReq := rfl
@[simp] theorem State.enterMode_mem (n : Nat) (l : Word) : (s.enterMode n l).mem = s.mem := rfl
@[simp] theorem State.enterMode_platform (n : Nat) (l : Word) : (s.enterMode n l).platform = s.platform := rfl
@[simp] theorem State.enterMode_env (n : Nat) (l : Word) : (s.enterMode n l).env = s.env := rfl
@[simp] theorem State.enterMode_future (n : Nat) (l : Word) : (s.enterMode n l).future = s.future := rfl
@[simp] theorem State.enterMode_answers (n : Nat) (l : Word) : (s.enterMode n l).answers = s.answers := rfl
@[simp] theorem State.enterMode_free (n : Nat) (l : Word) : (s.enterMode n l).free = s.free := rfl

@[simp] theorem State.enterDerived_r (n : Nat) : (s.enterDerived n).r = s.r := rfl
@[simp] theorem State.enterDerived_msp (n : Nat) : (s.enterDerived n).msp = s.msp := rfl
@[simp] theorem State.enterDerived_psp (n : Nat) : (s.enterDerived n).psp = s.psp := rfl
@[simp] theorem State.enterDerived_lr (n : Nat) : (s.enterDerived n).lr = s.lr := rfl
@[simp] theorem State.enterDerived_pc (n : Nat) : (s.enterDerived n).pc = s.pc := rfl
@[simp] theorem State.enterDerived_flags (n : Nat) : (s.enterDerived n).flags = s.flags := rfl
@[simp] theorem State.enterDerived_thumb (n : Nat) : (s.enterDerived n).thumb = s.thumb := rfl
@[simp] theorem State.enterDerived_ipsr (n : Nat) : (s.enterDerived n).ipsr = 3 := rfl
@[simp] theorem State.enterDerived_primask (n : Nat) : (s.enterDerived n).primask = s.primask := rfl
@[simp] theorem State.enterDerived_spsel (n : Nat) : (s.enterDerived n).spsel = s.spsel := rfl
@[simp] theorem State.enterDerived_event (n : Nat) : (s.enterDerived n).event = s.event := rfl
@[simp] theorem State.enterDerived_run (n : Nat) : (s.enterDerived n).run = s.run := rfl
@[simp] theorem State.enterDerived_nvic (n : Nat) : (s.enterDerived n).nvic = s.nvic.derivedHardFault n := rfl
@[simp] theorem State.enterDerived_scr (n : Nat) : (s.enterDerived n).scr = s.scr := rfl
@[simp] theorem State.enterDerived_sysTick (n : Nat) : (s.enterDerived n).sysTick = s.sysTick := rfl
@[simp] theorem State.enterDerived_resetReq (n : Nat) : (s.enterDerived n).resetReq = s.resetReq := rfl
@[simp] theorem State.enterDerived_mem (n : Nat) : (s.enterDerived n).mem = s.mem := rfl
@[simp] theorem State.enterDerived_platform (n : Nat) : (s.enterDerived n).platform = s.platform := rfl
@[simp] theorem State.enterDerived_env (n : Nat) : (s.enterDerived n).env = s.env := rfl
@[simp] theorem State.enterDerived_future (n : Nat) : (s.enterDerived n).future = s.future := rfl
@[simp] theorem State.enterDerived_answers (n : Nat) : (s.enterDerived n).answers = s.answers := rfl
@[simp] theorem State.enterDerived_free (n : Nat) : (s.enterDerived n).free = s.free := rfl

@[simp] theorem State.lockUp_r : s.lockUp.r = s.r := rfl
@[simp] theorem State.lockUp_msp : s.lockUp.msp = s.msp := rfl
@[simp] theorem State.lockUp_psp : s.lockUp.psp = s.psp := rfl
@[simp] theorem State.lockUp_lr : s.lockUp.lr = s.lr := rfl
@[simp] theorem State.lockUp_pc : s.lockUp.pc = s.pc := rfl
@[simp] theorem State.lockUp_flags : s.lockUp.flags = s.flags := rfl
@[simp] theorem State.lockUp_thumb : s.lockUp.thumb = s.thumb := rfl
@[simp] theorem State.lockUp_ipsr : s.lockUp.ipsr = s.ipsr := rfl
@[simp] theorem State.lockUp_primask : s.lockUp.primask = s.primask := rfl
@[simp] theorem State.lockUp_spsel : s.lockUp.spsel = s.spsel := rfl
@[simp] theorem State.lockUp_event : s.lockUp.event = s.event := rfl
@[simp] theorem State.lockUp_run : s.lockUp.run = .lockup := rfl
@[simp] theorem State.lockUp_nvic : s.lockUp.nvic = s.nvic := rfl
@[simp] theorem State.lockUp_scr : s.lockUp.scr = s.scr := rfl
@[simp] theorem State.lockUp_sysTick : s.lockUp.sysTick = s.sysTick := rfl
@[simp] theorem State.lockUp_resetReq : s.lockUp.resetReq = s.resetReq := rfl
@[simp] theorem State.lockUp_mem : s.lockUp.mem = s.mem := rfl
@[simp] theorem State.lockUp_platform : s.lockUp.platform = s.platform := rfl
@[simp] theorem State.lockUp_env : s.lockUp.env = s.env := rfl
@[simp] theorem State.lockUp_future : s.lockUp.future = s.future := rfl
@[simp] theorem State.lockUp_answers : s.lockUp.answers = s.answers := rfl
@[simp] theorem State.lockUp_free : s.lockUp.free = s.free := rfl

@[simp] theorem State.holdReset_r : s.holdReset.r = s.r := rfl
@[simp] theorem State.holdReset_msp : s.holdReset.msp = s.msp := rfl
@[simp] theorem State.holdReset_psp : s.holdReset.psp = s.psp := rfl
@[simp] theorem State.holdReset_lr : s.holdReset.lr = s.lr := rfl
@[simp] theorem State.holdReset_pc : s.holdReset.pc = s.pc := rfl
@[simp] theorem State.holdReset_flags : s.holdReset.flags = s.flags := rfl
@[simp] theorem State.holdReset_thumb : s.holdReset.thumb = s.thumb := rfl
@[simp] theorem State.holdReset_ipsr : s.holdReset.ipsr = s.ipsr := rfl
@[simp] theorem State.holdReset_primask : s.holdReset.primask = s.primask := rfl
@[simp] theorem State.holdReset_spsel : s.holdReset.spsel = s.spsel := rfl
@[simp] theorem State.holdReset_event : s.holdReset.event = s.event := rfl
@[simp] theorem State.holdReset_run : s.holdReset.run = .inReset := rfl
@[simp] theorem State.holdReset_nvic : s.holdReset.nvic = s.nvic := rfl
@[simp] theorem State.holdReset_scr : s.holdReset.scr = s.scr := rfl
@[simp] theorem State.holdReset_sysTick : s.holdReset.sysTick = s.sysTick := rfl
@[simp] theorem State.holdReset_resetReq : s.holdReset.resetReq = false := rfl
@[simp] theorem State.holdReset_mem : s.holdReset.mem = s.mem := rfl
@[simp] theorem State.holdReset_platform : s.holdReset.platform = s.platform := rfl
@[simp] theorem State.holdReset_env : s.holdReset.env = s.env := rfl
@[simp] theorem State.holdReset_future : s.holdReset.future = s.future := rfl
@[simp] theorem State.holdReset_answers : s.holdReset.answers = s.answers := rfl
@[simp] theorem State.holdReset_free : s.holdReset.free = s.free := rfl

@[simp] theorem State.pend_r (n : Nat) : (s.pend n).r = s.r := rfl
@[simp] theorem State.pend_msp (n : Nat) : (s.pend n).msp = s.msp := rfl
@[simp] theorem State.pend_psp (n : Nat) : (s.pend n).psp = s.psp := rfl
@[simp] theorem State.pend_lr (n : Nat) : (s.pend n).lr = s.lr := rfl
@[simp] theorem State.pend_pc (n : Nat) : (s.pend n).pc = s.pc := rfl
@[simp] theorem State.pend_flags (n : Nat) : (s.pend n).flags = s.flags := rfl
@[simp] theorem State.pend_thumb (n : Nat) : (s.pend n).thumb = s.thumb := rfl
@[simp] theorem State.pend_ipsr (n : Nat) : (s.pend n).ipsr = s.ipsr := rfl
@[simp] theorem State.pend_primask (n : Nat) : (s.pend n).primask = s.primask := rfl
@[simp] theorem State.pend_spsel (n : Nat) : (s.pend n).spsel = s.spsel := rfl
@[simp] theorem State.pend_event (n : Nat) : (s.pend n).event = s.event := rfl
@[simp] theorem State.pend_run (n : Nat) : (s.pend n).run = s.run := rfl
@[simp] theorem State.pend_nvic (n : Nat) : (s.pend n).nvic = s.nvic.pend n := rfl
@[simp] theorem State.pend_scr (n : Nat) : (s.pend n).scr = s.scr := rfl
@[simp] theorem State.pend_sysTick (n : Nat) : (s.pend n).sysTick = s.sysTick := rfl
@[simp] theorem State.pend_resetReq (n : Nat) : (s.pend n).resetReq = s.resetReq := rfl
@[simp] theorem State.pend_mem (n : Nat) : (s.pend n).mem = s.mem := rfl
@[simp] theorem State.pend_platform (n : Nat) : (s.pend n).platform = s.platform := rfl
@[simp] theorem State.pend_env (n : Nat) : (s.pend n).env = s.env := rfl
@[simp] theorem State.pend_future (n : Nat) : (s.pend n).future = s.future := rfl
@[simp] theorem State.pend_answers (n : Nat) : (s.pend n).answers = s.answers := rfl
@[simp] theorem State.pend_free (n : Nat) : (s.pend n).free = s.free := rfl

@[simp] theorem State.deactivateCurrent_r : s.deactivateCurrent.r = s.r := rfl
@[simp] theorem State.deactivateCurrent_msp : s.deactivateCurrent.msp = s.msp := rfl
@[simp] theorem State.deactivateCurrent_psp : s.deactivateCurrent.psp = s.psp := rfl
@[simp] theorem State.deactivateCurrent_lr : s.deactivateCurrent.lr = s.lr := rfl
@[simp] theorem State.deactivateCurrent_pc : s.deactivateCurrent.pc = s.pc := rfl
@[simp] theorem State.deactivateCurrent_flags : s.deactivateCurrent.flags = s.flags := rfl
@[simp] theorem State.deactivateCurrent_thumb : s.deactivateCurrent.thumb = s.thumb := rfl
@[simp] theorem State.deactivateCurrent_ipsr : s.deactivateCurrent.ipsr = s.ipsr := rfl
@[simp] theorem State.deactivateCurrent_primask : s.deactivateCurrent.primask = s.primask := rfl
@[simp] theorem State.deactivateCurrent_spsel : s.deactivateCurrent.spsel = s.spsel := rfl
@[simp] theorem State.deactivateCurrent_event : s.deactivateCurrent.event = s.event := rfl
@[simp] theorem State.deactivateCurrent_run : s.deactivateCurrent.run = s.run := rfl
@[simp] theorem State.deactivateCurrent_nvic : s.deactivateCurrent.nvic = s.nvic.deactivate s.ipsr.toNat := rfl
@[simp] theorem State.deactivateCurrent_scr : s.deactivateCurrent.scr = s.scr := rfl
@[simp] theorem State.deactivateCurrent_sysTick : s.deactivateCurrent.sysTick = s.sysTick := rfl
@[simp] theorem State.deactivateCurrent_resetReq : s.deactivateCurrent.resetReq = s.resetReq := rfl
@[simp] theorem State.deactivateCurrent_mem : s.deactivateCurrent.mem = s.mem := rfl
@[simp] theorem State.deactivateCurrent_platform : s.deactivateCurrent.platform = s.platform := rfl
@[simp] theorem State.deactivateCurrent_env : s.deactivateCurrent.env = s.env := rfl
@[simp] theorem State.deactivateCurrent_future : s.deactivateCurrent.future = s.future := rfl
@[simp] theorem State.deactivateCurrent_answers : s.deactivateCurrent.answers = s.answers := rfl
@[simp] theorem State.deactivateCurrent_free : s.deactivateCurrent.free = s.free := rfl

@[simp] theorem State.restore_r (t p : Bool) (ws : List Word) (psr : Word) : (s.restore t p ws psr).r = restoreRegs s.r ws := by dsimp only [State.restore]
@[simp] theorem State.restore_lr (t p : Bool) (ws : List Word) (psr : Word) : (s.restore t p ws psr).lr = ws.getD 5 0 := by dsimp only [State.restore]
@[simp] theorem State.restore_pc (t p : Bool) (ws : List Word) (psr : Word) : (s.restore t p ws psr).pc = ws.getD 6 0 := by dsimp only [State.restore]
@[simp] theorem State.restore_flags (t p : Bool) (ws : List Word) (psr : Word) : (s.restore t p ws psr).flags = Flags.ofWord psr := by dsimp only [State.restore]
@[simp] theorem State.restore_thumb (t p : Bool) (ws : List Word) (psr : Word) : (s.restore t p ws psr).thumb = psr.getLsbD 24 := by dsimp only [State.restore]
@[simp] theorem State.restore_ipsr (t p : Bool) (ws : List Word) (psr : Word) : (s.restore t p ws psr).ipsr = psr.setWidth 6 := by dsimp only [State.restore]
@[simp] theorem State.restore_primask (t p : Bool) (ws : List Word) (psr : Word) : (s.restore t p ws psr).primask = s.primask := by dsimp only [State.restore]
@[simp] theorem State.restore_spsel (t p : Bool) (ws : List Word) (psr : Word) : (s.restore t p ws psr).spsel = (t && p) := by dsimp only [State.restore]
@[simp] theorem State.restore_event (t p : Bool) (ws : List Word) (psr : Word) : (s.restore t p ws psr).event = s.event := by dsimp only [State.restore]
@[simp] theorem State.restore_nvic (t p : Bool) (ws : List Word) (psr : Word) : (s.restore t p ws psr).nvic = s.nvic := by dsimp only [State.restore]
@[simp] theorem State.restore_scr (t p : Bool) (ws : List Word) (psr : Word) : (s.restore t p ws psr).scr = s.scr := by dsimp only [State.restore]
@[simp] theorem State.restore_sysTick (t p : Bool) (ws : List Word) (psr : Word) : (s.restore t p ws psr).sysTick = s.sysTick := by dsimp only [State.restore]
@[simp] theorem State.restore_resetReq (t p : Bool) (ws : List Word) (psr : Word) : (s.restore t p ws psr).resetReq = s.resetReq := by dsimp only [State.restore]
@[simp] theorem State.restore_mem (t p : Bool) (ws : List Word) (psr : Word) : (s.restore t p ws psr).mem = s.mem := by dsimp only [State.restore]
@[simp] theorem State.restore_platform (t p : Bool) (ws : List Word) (psr : Word) : (s.restore t p ws psr).platform = s.platform := by dsimp only [State.restore]
@[simp] theorem State.restore_env (t p : Bool) (ws : List Word) (psr : Word) : (s.restore t p ws psr).env = s.env := by dsimp only [State.restore]
@[simp] theorem State.restore_future (t p : Bool) (ws : List Word) (psr : Word) : (s.restore t p ws psr).future = s.future := by dsimp only [State.restore]
@[simp] theorem State.restore_answers (t p : Bool) (ws : List Word) (psr : Word) : (s.restore t p ws psr).answers = s.answers := by dsimp only [State.restore]
@[simp] theorem State.restore_free (t p : Bool) (ws : List Word) (psr : Word) : (s.restore t p ws psr).free = s.free := by dsimp only [State.restore]

@[simp] theorem State.pendIrqs_r (w : BitVec 32) : (s.pendIrqs w).r = s.r := rfl
@[simp] theorem State.pendIrqs_msp (w : BitVec 32) : (s.pendIrqs w).msp = s.msp := rfl
@[simp] theorem State.pendIrqs_psp (w : BitVec 32) : (s.pendIrqs w).psp = s.psp := rfl
@[simp] theorem State.pendIrqs_lr (w : BitVec 32) : (s.pendIrqs w).lr = s.lr := rfl
@[simp] theorem State.pendIrqs_pc (w : BitVec 32) : (s.pendIrqs w).pc = s.pc := rfl
@[simp] theorem State.pendIrqs_flags (w : BitVec 32) : (s.pendIrqs w).flags = s.flags := rfl
@[simp] theorem State.pendIrqs_thumb (w : BitVec 32) : (s.pendIrqs w).thumb = s.thumb := rfl
@[simp] theorem State.pendIrqs_ipsr (w : BitVec 32) : (s.pendIrqs w).ipsr = s.ipsr := rfl
@[simp] theorem State.pendIrqs_primask (w : BitVec 32) : (s.pendIrqs w).primask = s.primask := rfl
@[simp] theorem State.pendIrqs_spsel (w : BitVec 32) : (s.pendIrqs w).spsel = s.spsel := rfl
@[simp] theorem State.pendIrqs_run (w : BitVec 32) : (s.pendIrqs w).run = s.run := rfl
@[simp] theorem State.pendIrqs_scr (w : BitVec 32) : (s.pendIrqs w).scr = s.scr := rfl
@[simp] theorem State.pendIrqs_sysTick (w : BitVec 32) : (s.pendIrqs w).sysTick = s.sysTick := rfl
@[simp] theorem State.pendIrqs_resetReq (w : BitVec 32) : (s.pendIrqs w).resetReq = s.resetReq := rfl
@[simp] theorem State.pendIrqs_mem (w : BitVec 32) : (s.pendIrqs w).mem = s.mem := rfl
@[simp] theorem State.pendIrqs_platform (w : BitVec 32) : (s.pendIrqs w).platform = s.platform := rfl
@[simp] theorem State.pendIrqs_env (w : BitVec 32) : (s.pendIrqs w).env = s.env := rfl
@[simp] theorem State.pendIrqs_future (w : BitVec 32) : (s.pendIrqs w).future = s.future := rfl
@[simp] theorem State.pendIrqs_answers (w : BitVec 32) : (s.pendIrqs w).answers = s.answers := rfl
@[simp] theorem State.pendIrqs_free (w : BitVec 32) : (s.pendIrqs w).free = s.free := rfl

@[simp] theorem State.rememberLines_r (w : BitVec 32) : (s.rememberLines w).r = s.r := rfl
@[simp] theorem State.rememberLines_msp (w : BitVec 32) : (s.rememberLines w).msp = s.msp := rfl
@[simp] theorem State.rememberLines_psp (w : BitVec 32) : (s.rememberLines w).psp = s.psp := rfl
@[simp] theorem State.rememberLines_lr (w : BitVec 32) : (s.rememberLines w).lr = s.lr := rfl
@[simp] theorem State.rememberLines_pc (w : BitVec 32) : (s.rememberLines w).pc = s.pc := rfl
@[simp] theorem State.rememberLines_flags (w : BitVec 32) : (s.rememberLines w).flags = s.flags := rfl
@[simp] theorem State.rememberLines_thumb (w : BitVec 32) : (s.rememberLines w).thumb = s.thumb := rfl
@[simp] theorem State.rememberLines_ipsr (w : BitVec 32) : (s.rememberLines w).ipsr = s.ipsr := rfl
@[simp] theorem State.rememberLines_primask (w : BitVec 32) : (s.rememberLines w).primask = s.primask := rfl
@[simp] theorem State.rememberLines_spsel (w : BitVec 32) : (s.rememberLines w).spsel = s.spsel := rfl
@[simp] theorem State.rememberLines_event (w : BitVec 32) : (s.rememberLines w).event = s.event := rfl
@[simp] theorem State.rememberLines_run (w : BitVec 32) : (s.rememberLines w).run = s.run := rfl
@[simp] theorem State.rememberLines_scr (w : BitVec 32) : (s.rememberLines w).scr = s.scr := rfl
@[simp] theorem State.rememberLines_sysTick (w : BitVec 32) : (s.rememberLines w).sysTick = s.sysTick := rfl
@[simp] theorem State.rememberLines_resetReq (w : BitVec 32) : (s.rememberLines w).resetReq = s.resetReq := rfl
@[simp] theorem State.rememberLines_mem (w : BitVec 32) : (s.rememberLines w).mem = s.mem := rfl
@[simp] theorem State.rememberLines_platform (w : BitVec 32) : (s.rememberLines w).platform = s.platform := rfl
@[simp] theorem State.rememberLines_env (w : BitVec 32) : (s.rememberLines w).env = s.env := rfl
@[simp] theorem State.rememberLines_future (w : BitVec 32) : (s.rememberLines w).future = s.future := rfl
@[simp] theorem State.rememberLines_answers (w : BitVec 32) : (s.rememberLines w).answers = s.answers := rfl
@[simp] theorem State.rememberLines_free (w : BitVec 32) : (s.rememberLines w).free = s.free := rfl

@[simp] theorem State.pendSysTick_r : s.pendSysTick.r = s.r := rfl
@[simp] theorem State.pendSysTick_msp : s.pendSysTick.msp = s.msp := rfl
@[simp] theorem State.pendSysTick_psp : s.pendSysTick.psp = s.psp := rfl
@[simp] theorem State.pendSysTick_lr : s.pendSysTick.lr = s.lr := rfl
@[simp] theorem State.pendSysTick_pc : s.pendSysTick.pc = s.pc := rfl
@[simp] theorem State.pendSysTick_flags : s.pendSysTick.flags = s.flags := rfl
@[simp] theorem State.pendSysTick_thumb : s.pendSysTick.thumb = s.thumb := rfl
@[simp] theorem State.pendSysTick_ipsr : s.pendSysTick.ipsr = s.ipsr := rfl
@[simp] theorem State.pendSysTick_primask : s.pendSysTick.primask = s.primask := rfl
@[simp] theorem State.pendSysTick_spsel : s.pendSysTick.spsel = s.spsel := rfl
@[simp] theorem State.pendSysTick_run : s.pendSysTick.run = s.run := rfl
@[simp] theorem State.pendSysTick_nvic : s.pendSysTick.nvic = s.nvic.pend excSysTick := rfl
@[simp] theorem State.pendSysTick_scr : s.pendSysTick.scr = s.scr := rfl
@[simp] theorem State.pendSysTick_sysTick : s.pendSysTick.sysTick = s.sysTick := rfl
@[simp] theorem State.pendSysTick_resetReq : s.pendSysTick.resetReq = s.resetReq := rfl
@[simp] theorem State.pendSysTick_mem : s.pendSysTick.mem = s.mem := rfl
@[simp] theorem State.pendSysTick_platform : s.pendSysTick.platform = s.platform := rfl
@[simp] theorem State.pendSysTick_env : s.pendSysTick.env = s.env := rfl
@[simp] theorem State.pendSysTick_future : s.pendSysTick.future = s.future := rfl
@[simp] theorem State.pendSysTick_answers : s.pendSysTick.answers = s.answers := rfl
@[simp] theorem State.pendSysTick_free : s.pendSysTick.free = s.free := rfl

@[simp] theorem State.setMap_r (m : List Region) : (s.setMap m).r = s.r := rfl
@[simp] theorem State.setMap_msp (m : List Region) : (s.setMap m).msp = s.msp := rfl
@[simp] theorem State.setMap_psp (m : List Region) : (s.setMap m).psp = s.psp := rfl
@[simp] theorem State.setMap_lr (m : List Region) : (s.setMap m).lr = s.lr := rfl
@[simp] theorem State.setMap_pc (m : List Region) : (s.setMap m).pc = s.pc := rfl
@[simp] theorem State.setMap_flags (m : List Region) : (s.setMap m).flags = s.flags := rfl
@[simp] theorem State.setMap_thumb (m : List Region) : (s.setMap m).thumb = s.thumb := rfl
@[simp] theorem State.setMap_ipsr (m : List Region) : (s.setMap m).ipsr = s.ipsr := rfl
@[simp] theorem State.setMap_primask (m : List Region) : (s.setMap m).primask = s.primask := rfl
@[simp] theorem State.setMap_spsel (m : List Region) : (s.setMap m).spsel = s.spsel := rfl
@[simp] theorem State.setMap_event (m : List Region) : (s.setMap m).event = s.event := rfl
@[simp] theorem State.setMap_run (m : List Region) : (s.setMap m).run = s.run := rfl
@[simp] theorem State.setMap_nvic (m : List Region) : (s.setMap m).nvic = s.nvic := rfl
@[simp] theorem State.setMap_scr (m : List Region) : (s.setMap m).scr = s.scr := rfl
@[simp] theorem State.setMap_sysTick (m : List Region) : (s.setMap m).sysTick = s.sysTick := rfl
@[simp] theorem State.setMap_resetReq (m : List Region) : (s.setMap m).resetReq = s.resetReq := rfl
@[simp] theorem State.setMap_mem (m : List Region) : (s.setMap m).mem = s.mem := rfl
@[simp] theorem State.setMap_platform (m : List Region) : (s.setMap m).platform = { s.platform with memMap := m } := rfl
@[simp] theorem State.setMap_env (m : List Region) : (s.setMap m).env = s.env := rfl
@[simp] theorem State.setMap_future (m : List Region) : (s.setMap m).future = s.future := rfl
@[simp] theorem State.setMap_answers (m : List Region) : (s.setMap m).answers = s.answers := rfl
@[simp] theorem State.setMap_free (m : List Region) : (s.setMap m).free = s.free := rfl

@[simp] theorem State.deviceRead_r : s.deviceRead.r = s.r := by
  unfold State.deviceRead; split <;> rfl
@[simp] theorem State.deviceRead_msp : s.deviceRead.msp = s.msp := by
  unfold State.deviceRead; split <;> rfl
@[simp] theorem State.deviceRead_psp : s.deviceRead.psp = s.psp := by
  unfold State.deviceRead; split <;> rfl
@[simp] theorem State.deviceRead_lr : s.deviceRead.lr = s.lr := by
  unfold State.deviceRead; split <;> rfl
@[simp] theorem State.deviceRead_pc : s.deviceRead.pc = s.pc := by
  unfold State.deviceRead; split <;> rfl
@[simp] theorem State.deviceRead_flags : s.deviceRead.flags = s.flags := by
  unfold State.deviceRead; split <;> rfl
@[simp] theorem State.deviceRead_thumb : s.deviceRead.thumb = s.thumb := by
  unfold State.deviceRead; split <;> rfl
@[simp] theorem State.deviceRead_ipsr : s.deviceRead.ipsr = s.ipsr := by
  unfold State.deviceRead; split <;> rfl
@[simp] theorem State.deviceRead_primask : s.deviceRead.primask = s.primask := by
  unfold State.deviceRead; split <;> rfl
@[simp] theorem State.deviceRead_spsel : s.deviceRead.spsel = s.spsel := by
  unfold State.deviceRead; split <;> rfl
@[simp] theorem State.deviceRead_event : s.deviceRead.event = s.event := by
  unfold State.deviceRead; split <;> rfl
@[simp] theorem State.deviceRead_run : s.deviceRead.run = s.run := by
  unfold State.deviceRead; split <;> rfl
@[simp] theorem State.deviceRead_nvic : s.deviceRead.nvic = s.nvic := by
  unfold State.deviceRead; split <;> rfl
@[simp] theorem State.deviceRead_scr : s.deviceRead.scr = s.scr := by
  unfold State.deviceRead; split <;> rfl
@[simp] theorem State.deviceRead_sysTick : s.deviceRead.sysTick = s.sysTick := by
  unfold State.deviceRead; split <;> rfl
@[simp] theorem State.deviceRead_resetReq : s.deviceRead.resetReq = s.resetReq := by
  unfold State.deviceRead; split <;> rfl
@[simp] theorem State.deviceRead_mem : s.deviceRead.mem = s.mem := by
  unfold State.deviceRead; split <;> rfl
@[simp] theorem State.deviceRead_platform : s.deviceRead.platform = s.platform := by
  unfold State.deviceRead; split <;> rfl
@[simp] theorem State.deviceRead_env : s.deviceRead.env = s.env := by
  unfold State.deviceRead; split <;> rfl
@[simp] theorem State.deviceRead_future : s.deviceRead.future = s.future := by
  unfold State.deviceRead; split <;> rfl

@[simp] theorem State.deviceWritten_r : s.deviceWritten.r = s.r := by
  unfold State.deviceWritten; split <;> rfl
@[simp] theorem State.deviceWritten_msp : s.deviceWritten.msp = s.msp := by
  unfold State.deviceWritten; split <;> rfl
@[simp] theorem State.deviceWritten_psp : s.deviceWritten.psp = s.psp := by
  unfold State.deviceWritten; split <;> rfl
@[simp] theorem State.deviceWritten_lr : s.deviceWritten.lr = s.lr := by
  unfold State.deviceWritten; split <;> rfl
@[simp] theorem State.deviceWritten_pc : s.deviceWritten.pc = s.pc := by
  unfold State.deviceWritten; split <;> rfl
@[simp] theorem State.deviceWritten_flags : s.deviceWritten.flags = s.flags := by
  unfold State.deviceWritten; split <;> rfl
@[simp] theorem State.deviceWritten_thumb : s.deviceWritten.thumb = s.thumb := by
  unfold State.deviceWritten; split <;> rfl
@[simp] theorem State.deviceWritten_ipsr : s.deviceWritten.ipsr = s.ipsr := by
  unfold State.deviceWritten; split <;> rfl
@[simp] theorem State.deviceWritten_primask : s.deviceWritten.primask = s.primask := by
  unfold State.deviceWritten; split <;> rfl
@[simp] theorem State.deviceWritten_spsel : s.deviceWritten.spsel = s.spsel := by
  unfold State.deviceWritten; split <;> rfl
@[simp] theorem State.deviceWritten_event : s.deviceWritten.event = s.event := by
  unfold State.deviceWritten; split <;> rfl
@[simp] theorem State.deviceWritten_run : s.deviceWritten.run = s.run := by
  unfold State.deviceWritten; split <;> rfl
@[simp] theorem State.deviceWritten_nvic : s.deviceWritten.nvic = s.nvic := by
  unfold State.deviceWritten; split <;> rfl
@[simp] theorem State.deviceWritten_scr : s.deviceWritten.scr = s.scr := by
  unfold State.deviceWritten; split <;> rfl
@[simp] theorem State.deviceWritten_sysTick : s.deviceWritten.sysTick = s.sysTick := by
  unfold State.deviceWritten; split <;> rfl
@[simp] theorem State.deviceWritten_resetReq : s.deviceWritten.resetReq = s.resetReq := by
  unfold State.deviceWritten; split <;> rfl
@[simp] theorem State.deviceWritten_mem : s.deviceWritten.mem = s.mem := by
  unfold State.deviceWritten; split <;> rfl
@[simp] theorem State.deviceWritten_env : s.deviceWritten.env = s.env := by
  unfold State.deviceWritten; split <;> rfl
@[simp] theorem State.deviceWritten_future : s.deviceWritten.future = s.future := by
  unfold State.deviceWritten; split <;> rfl
@[simp] theorem State.deviceWritten_free : s.deviceWritten.free = s.free := by
  unfold State.deviceWritten; split <;> rfl

@[simp] theorem State.setEvent_r : s.setEvent.r = s.r := rfl
@[simp] theorem State.setEvent_msp : s.setEvent.msp = s.msp := rfl
@[simp] theorem State.setEvent_psp : s.setEvent.psp = s.psp := rfl
@[simp] theorem State.setEvent_lr : s.setEvent.lr = s.lr := rfl
@[simp] theorem State.setEvent_pc : s.setEvent.pc = s.pc := rfl
@[simp] theorem State.setEvent_flags : s.setEvent.flags = s.flags := rfl
@[simp] theorem State.setEvent_thumb : s.setEvent.thumb = s.thumb := rfl
@[simp] theorem State.setEvent_ipsr : s.setEvent.ipsr = s.ipsr := rfl
@[simp] theorem State.setEvent_primask : s.setEvent.primask = s.primask := rfl
@[simp] theorem State.setEvent_spsel : s.setEvent.spsel = s.spsel := rfl
@[simp] theorem State.setEvent_event : s.setEvent.event = true := rfl
@[simp] theorem State.setEvent_run : s.setEvent.run = s.run := rfl
@[simp] theorem State.setEvent_nvic : s.setEvent.nvic = s.nvic := rfl
@[simp] theorem State.setEvent_scr : s.setEvent.scr = s.scr := rfl
@[simp] theorem State.setEvent_sysTick : s.setEvent.sysTick = s.sysTick := rfl
@[simp] theorem State.setEvent_resetReq : s.setEvent.resetReq = s.resetReq := rfl
@[simp] theorem State.setEvent_mem : s.setEvent.mem = s.mem := rfl
@[simp] theorem State.setEvent_platform : s.setEvent.platform = s.platform := rfl
@[simp] theorem State.setEvent_env : s.setEvent.env = s.env := rfl
@[simp] theorem State.setEvent_future : s.setEvent.future = s.future := rfl
@[simp] theorem State.setEvent_answers : s.setEvent.answers = s.answers := rfl
@[simp] theorem State.setEvent_free : s.setEvent.free = s.free := rfl

@[simp] theorem State.setPrimask_r (p : Bool) : (s.setPrimask p).r = s.r := rfl
@[simp] theorem State.setPrimask_msp (p : Bool) : (s.setPrimask p).msp = s.msp := rfl
@[simp] theorem State.setPrimask_psp (p : Bool) : (s.setPrimask p).psp = s.psp := rfl
@[simp] theorem State.setPrimask_lr (p : Bool) : (s.setPrimask p).lr = s.lr := rfl
@[simp] theorem State.setPrimask_pc (p : Bool) : (s.setPrimask p).pc = s.pc := rfl
@[simp] theorem State.setPrimask_flags (p : Bool) : (s.setPrimask p).flags = s.flags := rfl
@[simp] theorem State.setPrimask_thumb (p : Bool) : (s.setPrimask p).thumb = s.thumb := rfl
@[simp] theorem State.setPrimask_ipsr (p : Bool) : (s.setPrimask p).ipsr = s.ipsr := rfl
@[simp] theorem State.setPrimask_primask (p : Bool) : (s.setPrimask p).primask = p := rfl
@[simp] theorem State.setPrimask_spsel (p : Bool) : (s.setPrimask p).spsel = s.spsel := rfl
@[simp] theorem State.setPrimask_event (p : Bool) : (s.setPrimask p).event = s.event := rfl
@[simp] theorem State.setPrimask_run (p : Bool) : (s.setPrimask p).run = s.run := rfl
@[simp] theorem State.setPrimask_nvic (p : Bool) : (s.setPrimask p).nvic = s.nvic := rfl
@[simp] theorem State.setPrimask_scr (p : Bool) : (s.setPrimask p).scr = s.scr := rfl
@[simp] theorem State.setPrimask_sysTick (p : Bool) : (s.setPrimask p).sysTick = s.sysTick := rfl
@[simp] theorem State.setPrimask_resetReq (p : Bool) : (s.setPrimask p).resetReq = s.resetReq := rfl
@[simp] theorem State.setPrimask_mem (p : Bool) : (s.setPrimask p).mem = s.mem := rfl
@[simp] theorem State.setPrimask_platform (p : Bool) : (s.setPrimask p).platform = s.platform := rfl
@[simp] theorem State.setPrimask_env (p : Bool) : (s.setPrimask p).env = s.env := rfl
@[simp] theorem State.setPrimask_future (p : Bool) : (s.setPrimask p).future = s.future := rfl
@[simp] theorem State.setPrimask_answers (p : Bool) : (s.setPrimask p).answers = s.answers := rfl
@[simp] theorem State.setPrimask_free (p : Bool) : (s.setPrimask p).free = s.free := rfl

@[simp] theorem State.setFlagsFrom_r (v : Word) : (s.setFlagsFrom v).r = s.r := rfl
@[simp] theorem State.setFlagsFrom_msp (v : Word) : (s.setFlagsFrom v).msp = s.msp := rfl
@[simp] theorem State.setFlagsFrom_psp (v : Word) : (s.setFlagsFrom v).psp = s.psp := rfl
@[simp] theorem State.setFlagsFrom_lr (v : Word) : (s.setFlagsFrom v).lr = s.lr := rfl
@[simp] theorem State.setFlagsFrom_pc (v : Word) : (s.setFlagsFrom v).pc = s.pc := rfl
@[simp] theorem State.setFlagsFrom_flags (v : Word) : (s.setFlagsFrom v).flags = Flags.ofWord v := rfl
@[simp] theorem State.setFlagsFrom_thumb (v : Word) : (s.setFlagsFrom v).thumb = s.thumb := rfl
@[simp] theorem State.setFlagsFrom_ipsr (v : Word) : (s.setFlagsFrom v).ipsr = s.ipsr := rfl
@[simp] theorem State.setFlagsFrom_primask (v : Word) : (s.setFlagsFrom v).primask = s.primask := rfl
@[simp] theorem State.setFlagsFrom_spsel (v : Word) : (s.setFlagsFrom v).spsel = s.spsel := rfl
@[simp] theorem State.setFlagsFrom_event (v : Word) : (s.setFlagsFrom v).event = s.event := rfl
@[simp] theorem State.setFlagsFrom_run (v : Word) : (s.setFlagsFrom v).run = s.run := rfl
@[simp] theorem State.setFlagsFrom_nvic (v : Word) : (s.setFlagsFrom v).nvic = s.nvic := rfl
@[simp] theorem State.setFlagsFrom_scr (v : Word) : (s.setFlagsFrom v).scr = s.scr := rfl
@[simp] theorem State.setFlagsFrom_sysTick (v : Word) : (s.setFlagsFrom v).sysTick = s.sysTick := rfl
@[simp] theorem State.setFlagsFrom_resetReq (v : Word) : (s.setFlagsFrom v).resetReq = s.resetReq := rfl
@[simp] theorem State.setFlagsFrom_mem (v : Word) : (s.setFlagsFrom v).mem = s.mem := rfl
@[simp] theorem State.setFlagsFrom_platform (v : Word) : (s.setFlagsFrom v).platform = s.platform := rfl
@[simp] theorem State.setFlagsFrom_env (v : Word) : (s.setFlagsFrom v).env = s.env := rfl
@[simp] theorem State.setFlagsFrom_future (v : Word) : (s.setFlagsFrom v).future = s.future := rfl
@[simp] theorem State.setFlagsFrom_answers (v : Word) : (s.setFlagsFrom v).answers = s.answers := rfl
@[simp] theorem State.setFlagsFrom_free (v : Word) : (s.setFlagsFrom v).free = s.free := rfl

@[simp] theorem State.setMsp_r (v : Word) : (s.setMsp v).r = s.r := rfl
@[simp] theorem State.setMsp_msp (v : Word) : (s.setMsp v).msp = wordAligned v := rfl
@[simp] theorem State.setMsp_psp (v : Word) : (s.setMsp v).psp = s.psp := rfl
@[simp] theorem State.setMsp_lr (v : Word) : (s.setMsp v).lr = s.lr := rfl
@[simp] theorem State.setMsp_pc (v : Word) : (s.setMsp v).pc = s.pc := rfl
@[simp] theorem State.setMsp_flags (v : Word) : (s.setMsp v).flags = s.flags := rfl
@[simp] theorem State.setMsp_thumb (v : Word) : (s.setMsp v).thumb = s.thumb := rfl
@[simp] theorem State.setMsp_ipsr (v : Word) : (s.setMsp v).ipsr = s.ipsr := rfl
@[simp] theorem State.setMsp_primask (v : Word) : (s.setMsp v).primask = s.primask := rfl
@[simp] theorem State.setMsp_spsel (v : Word) : (s.setMsp v).spsel = s.spsel := rfl
@[simp] theorem State.setMsp_event (v : Word) : (s.setMsp v).event = s.event := rfl
@[simp] theorem State.setMsp_run (v : Word) : (s.setMsp v).run = s.run := rfl
@[simp] theorem State.setMsp_nvic (v : Word) : (s.setMsp v).nvic = s.nvic := rfl
@[simp] theorem State.setMsp_scr (v : Word) : (s.setMsp v).scr = s.scr := rfl
@[simp] theorem State.setMsp_sysTick (v : Word) : (s.setMsp v).sysTick = s.sysTick := rfl
@[simp] theorem State.setMsp_resetReq (v : Word) : (s.setMsp v).resetReq = s.resetReq := rfl
@[simp] theorem State.setMsp_mem (v : Word) : (s.setMsp v).mem = s.mem := rfl
@[simp] theorem State.setMsp_platform (v : Word) : (s.setMsp v).platform = s.platform := rfl
@[simp] theorem State.setMsp_env (v : Word) : (s.setMsp v).env = s.env := rfl
@[simp] theorem State.setMsp_future (v : Word) : (s.setMsp v).future = s.future := rfl
@[simp] theorem State.setMsp_answers (v : Word) : (s.setMsp v).answers = s.answers := rfl
@[simp] theorem State.setMsp_free (v : Word) : (s.setMsp v).free = s.free := rfl

@[simp] theorem State.setPsp_r (v : Word) : (s.setPsp v).r = s.r := rfl
@[simp] theorem State.setPsp_msp (v : Word) : (s.setPsp v).msp = s.msp := rfl
@[simp] theorem State.setPsp_psp (v : Word) : (s.setPsp v).psp = wordAligned v := rfl
@[simp] theorem State.setPsp_lr (v : Word) : (s.setPsp v).lr = s.lr := rfl
@[simp] theorem State.setPsp_pc (v : Word) : (s.setPsp v).pc = s.pc := rfl
@[simp] theorem State.setPsp_flags (v : Word) : (s.setPsp v).flags = s.flags := rfl
@[simp] theorem State.setPsp_thumb (v : Word) : (s.setPsp v).thumb = s.thumb := rfl
@[simp] theorem State.setPsp_ipsr (v : Word) : (s.setPsp v).ipsr = s.ipsr := rfl
@[simp] theorem State.setPsp_primask (v : Word) : (s.setPsp v).primask = s.primask := rfl
@[simp] theorem State.setPsp_spsel (v : Word) : (s.setPsp v).spsel = s.spsel := rfl
@[simp] theorem State.setPsp_event (v : Word) : (s.setPsp v).event = s.event := rfl
@[simp] theorem State.setPsp_run (v : Word) : (s.setPsp v).run = s.run := rfl
@[simp] theorem State.setPsp_nvic (v : Word) : (s.setPsp v).nvic = s.nvic := rfl
@[simp] theorem State.setPsp_scr (v : Word) : (s.setPsp v).scr = s.scr := rfl
@[simp] theorem State.setPsp_sysTick (v : Word) : (s.setPsp v).sysTick = s.sysTick := rfl
@[simp] theorem State.setPsp_resetReq (v : Word) : (s.setPsp v).resetReq = s.resetReq := rfl
@[simp] theorem State.setPsp_mem (v : Word) : (s.setPsp v).mem = s.mem := rfl
@[simp] theorem State.setPsp_platform (v : Word) : (s.setPsp v).platform = s.platform := rfl
@[simp] theorem State.setPsp_env (v : Word) : (s.setPsp v).env = s.env := rfl
@[simp] theorem State.setPsp_future (v : Word) : (s.setPsp v).future = s.future := rfl
@[simp] theorem State.setPsp_answers (v : Word) : (s.setPsp v).answers = s.answers := rfl
@[simp] theorem State.setPsp_free (v : Word) : (s.setPsp v).free = s.free := rfl

@[simp] theorem State.setControl_r (v : Word) : (s.setControl v).r = s.r := rfl
@[simp] theorem State.setControl_msp (v : Word) : (s.setControl v).msp = s.msp := rfl
@[simp] theorem State.setControl_psp (v : Word) : (s.setControl v).psp = s.psp := rfl
@[simp] theorem State.setControl_lr (v : Word) : (s.setControl v).lr = s.lr := rfl
@[simp] theorem State.setControl_pc (v : Word) : (s.setControl v).pc = s.pc := rfl
@[simp] theorem State.setControl_flags (v : Word) : (s.setControl v).flags = s.flags := rfl
@[simp] theorem State.setControl_thumb (v : Word) : (s.setControl v).thumb = s.thumb := rfl
@[simp] theorem State.setControl_ipsr (v : Word) : (s.setControl v).ipsr = s.ipsr := rfl
@[simp] theorem State.setControl_primask (v : Word) : (s.setControl v).primask = s.primask := rfl
@[simp] theorem State.setControl_spsel (v : Word) : (s.setControl v).spsel = if s.threadMode then v.getLsbD 1 else s.spsel := rfl
@[simp] theorem State.setControl_event (v : Word) : (s.setControl v).event = s.event := rfl
@[simp] theorem State.setControl_run (v : Word) : (s.setControl v).run = s.run := rfl
@[simp] theorem State.setControl_nvic (v : Word) : (s.setControl v).nvic = s.nvic := rfl
@[simp] theorem State.setControl_scr (v : Word) : (s.setControl v).scr = s.scr := rfl
@[simp] theorem State.setControl_sysTick (v : Word) : (s.setControl v).sysTick = s.sysTick := rfl
@[simp] theorem State.setControl_resetReq (v : Word) : (s.setControl v).resetReq = s.resetReq := rfl
@[simp] theorem State.setControl_mem (v : Word) : (s.setControl v).mem = s.mem := rfl
@[simp] theorem State.setControl_platform (v : Word) : (s.setControl v).platform = s.platform := rfl
@[simp] theorem State.setControl_env (v : Word) : (s.setControl v).env = s.env := rfl
@[simp] theorem State.setControl_future (v : Word) : (s.setControl v).future = s.future := rfl
@[simp] theorem State.setControl_answers (v : Word) : (s.setControl v).answers = s.answers := rfl
@[simp] theorem State.setControl_free (v : Word) : (s.setControl v).free = s.free := rfl

@[simp] theorem State.clearEvent_r : s.clearEvent.r = s.r := rfl
@[simp] theorem State.clearEvent_msp : s.clearEvent.msp = s.msp := rfl
@[simp] theorem State.clearEvent_psp : s.clearEvent.psp = s.psp := rfl
@[simp] theorem State.clearEvent_lr : s.clearEvent.lr = s.lr := rfl
@[simp] theorem State.clearEvent_pc : s.clearEvent.pc = s.pc := rfl
@[simp] theorem State.clearEvent_flags : s.clearEvent.flags = s.flags := rfl
@[simp] theorem State.clearEvent_thumb : s.clearEvent.thumb = s.thumb := rfl
@[simp] theorem State.clearEvent_ipsr : s.clearEvent.ipsr = s.ipsr := rfl
@[simp] theorem State.clearEvent_primask : s.clearEvent.primask = s.primask := rfl
@[simp] theorem State.clearEvent_spsel : s.clearEvent.spsel = s.spsel := rfl
@[simp] theorem State.clearEvent_event : s.clearEvent.event = false := rfl
@[simp] theorem State.clearEvent_run : s.clearEvent.run = s.run := rfl
@[simp] theorem State.clearEvent_nvic : s.clearEvent.nvic = s.nvic := rfl
@[simp] theorem State.clearEvent_scr : s.clearEvent.scr = s.scr := rfl
@[simp] theorem State.clearEvent_sysTick : s.clearEvent.sysTick = s.sysTick := rfl
@[simp] theorem State.clearEvent_resetReq : s.clearEvent.resetReq = s.resetReq := rfl
@[simp] theorem State.clearEvent_mem : s.clearEvent.mem = s.mem := rfl
@[simp] theorem State.clearEvent_platform : s.clearEvent.platform = s.platform := rfl
@[simp] theorem State.clearEvent_env : s.clearEvent.env = s.env := rfl
@[simp] theorem State.clearEvent_future : s.clearEvent.future = s.future := rfl
@[simp] theorem State.clearEvent_answers : s.clearEvent.answers = s.answers := rfl
@[simp] theorem State.clearEvent_free : s.clearEvent.free = s.free := rfl

@[simp] theorem State.sleep_r (w : WakeSet) : (s.sleep w).r = s.r := rfl
@[simp] theorem State.sleep_msp (w : WakeSet) : (s.sleep w).msp = s.msp := rfl
@[simp] theorem State.sleep_psp (w : WakeSet) : (s.sleep w).psp = s.psp := rfl
@[simp] theorem State.sleep_lr (w : WakeSet) : (s.sleep w).lr = s.lr := rfl
@[simp] theorem State.sleep_pc (w : WakeSet) : (s.sleep w).pc = s.pc := rfl
@[simp] theorem State.sleep_flags (w : WakeSet) : (s.sleep w).flags = s.flags := rfl
@[simp] theorem State.sleep_thumb (w : WakeSet) : (s.sleep w).thumb = s.thumb := rfl
@[simp] theorem State.sleep_ipsr (w : WakeSet) : (s.sleep w).ipsr = s.ipsr := rfl
@[simp] theorem State.sleep_primask (w : WakeSet) : (s.sleep w).primask = s.primask := rfl
@[simp] theorem State.sleep_spsel (w : WakeSet) : (s.sleep w).spsel = s.spsel := rfl
@[simp] theorem State.sleep_event (w : WakeSet) : (s.sleep w).event = s.event := rfl
@[simp] theorem State.sleep_run (w : WakeSet) : (s.sleep w).run = .sleeping w := rfl
@[simp] theorem State.sleep_nvic (w : WakeSet) : (s.sleep w).nvic = s.nvic := rfl
@[simp] theorem State.sleep_scr (w : WakeSet) : (s.sleep w).scr = s.scr := rfl
@[simp] theorem State.sleep_sysTick (w : WakeSet) : (s.sleep w).sysTick = s.sysTick := rfl
@[simp] theorem State.sleep_resetReq (w : WakeSet) : (s.sleep w).resetReq = s.resetReq := rfl
@[simp] theorem State.sleep_mem (w : WakeSet) : (s.sleep w).mem = s.mem := rfl
@[simp] theorem State.sleep_platform (w : WakeSet) : (s.sleep w).platform = s.platform := rfl
@[simp] theorem State.sleep_env (w : WakeSet) : (s.sleep w).env = s.env := rfl
@[simp] theorem State.sleep_future (w : WakeSet) : (s.sleep w).future = s.future := rfl
@[simp] theorem State.sleep_answers (w : WakeSet) : (s.sleep w).answers = s.answers := rfl
@[simp] theorem State.sleep_free (w : WakeSet) : (s.sleep w).free = s.free := rfl

@[simp] theorem State.wakeUp_r : s.wakeUp.r = s.r := rfl
@[simp] theorem State.wakeUp_msp : s.wakeUp.msp = s.msp := rfl
@[simp] theorem State.wakeUp_psp : s.wakeUp.psp = s.psp := rfl
@[simp] theorem State.wakeUp_lr : s.wakeUp.lr = s.lr := rfl
@[simp] theorem State.wakeUp_pc : s.wakeUp.pc = s.pc := rfl
@[simp] theorem State.wakeUp_flags : s.wakeUp.flags = s.flags := rfl
@[simp] theorem State.wakeUp_thumb : s.wakeUp.thumb = s.thumb := rfl
@[simp] theorem State.wakeUp_ipsr : s.wakeUp.ipsr = s.ipsr := rfl
@[simp] theorem State.wakeUp_primask : s.wakeUp.primask = s.primask := rfl
@[simp] theorem State.wakeUp_spsel : s.wakeUp.spsel = s.spsel := rfl
@[simp] theorem State.wakeUp_event : s.wakeUp.event = s.event := rfl
@[simp] theorem State.wakeUp_run : s.wakeUp.run = .running := rfl
@[simp] theorem State.wakeUp_nvic : s.wakeUp.nvic = s.nvic := rfl
@[simp] theorem State.wakeUp_scr : s.wakeUp.scr = s.scr := rfl
@[simp] theorem State.wakeUp_sysTick : s.wakeUp.sysTick = s.sysTick := rfl
@[simp] theorem State.wakeUp_resetReq : s.wakeUp.resetReq = s.resetReq := rfl
@[simp] theorem State.wakeUp_mem : s.wakeUp.mem = s.mem := rfl
@[simp] theorem State.wakeUp_platform : s.wakeUp.platform = s.platform := rfl
@[simp] theorem State.wakeUp_env : s.wakeUp.env = s.env := rfl
@[simp] theorem State.wakeUp_future : s.wakeUp.future = s.future := rfl
@[simp] theorem State.wakeUp_answers : s.wakeUp.answers = s.answers := rfl
@[simp] theorem State.wakeUp_free : s.wakeUp.free = s.free := rfl

@[simp] theorem State.boot_r (v w : Word) : (s.boot v w).r = s.r := rfl
@[simp] theorem State.boot_msp (v w : Word) : (s.boot v w).msp = wordAligned v := rfl
@[simp] theorem State.boot_psp (v w : Word) : (s.boot v w).psp = s.psp := rfl
@[simp] theorem State.boot_lr (v w : Word) : (s.boot v w).lr = s.lr := rfl
@[simp] theorem State.boot_pc (v w : Word) : (s.boot v w).pc = halfAligned w := rfl
@[simp] theorem State.boot_flags (v w : Word) : (s.boot v w).flags = s.flags := rfl
@[simp] theorem State.boot_thumb (v w : Word) : (s.boot v w).thumb = w.getLsbD 0 := rfl
@[simp] theorem State.boot_ipsr (v w : Word) : (s.boot v w).ipsr = s.ipsr := rfl
@[simp] theorem State.boot_primask (v w : Word) : (s.boot v w).primask = s.primask := rfl
@[simp] theorem State.boot_spsel (v w : Word) : (s.boot v w).spsel = s.spsel := rfl
@[simp] theorem State.boot_event (v w : Word) : (s.boot v w).event = s.event := rfl
@[simp] theorem State.boot_run (v w : Word) : (s.boot v w).run = s.run := rfl
@[simp] theorem State.boot_nvic (v w : Word) : (s.boot v w).nvic = s.nvic := rfl
@[simp] theorem State.boot_scr (v w : Word) : (s.boot v w).scr = s.scr := rfl
@[simp] theorem State.boot_sysTick (v w : Word) : (s.boot v w).sysTick = s.sysTick := rfl
@[simp] theorem State.boot_resetReq (v w : Word) : (s.boot v w).resetReq = s.resetReq := rfl
@[simp] theorem State.boot_mem (v w : Word) : (s.boot v w).mem = s.mem := rfl
@[simp] theorem State.boot_platform (v w : Word) : (s.boot v w).platform = s.platform := rfl
@[simp] theorem State.boot_env (v w : Word) : (s.boot v w).env = s.env := rfl
@[simp] theorem State.boot_future (v w : Word) : (s.boot v w).future = s.future := rfl
@[simp] theorem State.boot_answers (v w : Word) : (s.boot v w).answers = s.answers := rfl
@[simp] theorem State.boot_free (v w : Word) : (s.boot v w).free = s.free := rfl

@[simp] theorem State.clearCountFlag_r : s.clearCountFlag.r = s.r := rfl
@[simp] theorem State.clearCountFlag_msp : s.clearCountFlag.msp = s.msp := rfl
@[simp] theorem State.clearCountFlag_psp : s.clearCountFlag.psp = s.psp := rfl
@[simp] theorem State.clearCountFlag_lr : s.clearCountFlag.lr = s.lr := rfl
@[simp] theorem State.clearCountFlag_pc : s.clearCountFlag.pc = s.pc := rfl
@[simp] theorem State.clearCountFlag_flags : s.clearCountFlag.flags = s.flags := rfl
@[simp] theorem State.clearCountFlag_thumb : s.clearCountFlag.thumb = s.thumb := rfl
@[simp] theorem State.clearCountFlag_ipsr : s.clearCountFlag.ipsr = s.ipsr := rfl
@[simp] theorem State.clearCountFlag_primask : s.clearCountFlag.primask = s.primask := rfl
@[simp] theorem State.clearCountFlag_spsel : s.clearCountFlag.spsel = s.spsel := rfl
@[simp] theorem State.clearCountFlag_event : s.clearCountFlag.event = s.event := rfl
@[simp] theorem State.clearCountFlag_run : s.clearCountFlag.run = s.run := rfl
@[simp] theorem State.clearCountFlag_nvic : s.clearCountFlag.nvic = s.nvic := rfl
@[simp] theorem State.clearCountFlag_scr : s.clearCountFlag.scr = s.scr := rfl
@[simp] theorem State.clearCountFlag_resetReq : s.clearCountFlag.resetReq = s.resetReq := rfl
@[simp] theorem State.clearCountFlag_mem : s.clearCountFlag.mem = s.mem := rfl
@[simp] theorem State.clearCountFlag_platform : s.clearCountFlag.platform = s.platform := rfl
@[simp] theorem State.clearCountFlag_env : s.clearCountFlag.env = s.env := rfl
@[simp] theorem State.clearCountFlag_future : s.clearCountFlag.future = s.future := rfl
@[simp] theorem State.clearCountFlag_answers : s.clearCountFlag.answers = s.answers := rfl
@[simp] theorem State.clearCountFlag_free : s.clearCountFlag.free = s.free := rfl

@[simp] theorem State.writeCsr_r (v : Word) : (s.writeCsr v).r = s.r := rfl
@[simp] theorem State.writeCsr_msp (v : Word) : (s.writeCsr v).msp = s.msp := rfl
@[simp] theorem State.writeCsr_psp (v : Word) : (s.writeCsr v).psp = s.psp := rfl
@[simp] theorem State.writeCsr_lr (v : Word) : (s.writeCsr v).lr = s.lr := rfl
@[simp] theorem State.writeCsr_pc (v : Word) : (s.writeCsr v).pc = s.pc := rfl
@[simp] theorem State.writeCsr_flags (v : Word) : (s.writeCsr v).flags = s.flags := rfl
@[simp] theorem State.writeCsr_thumb (v : Word) : (s.writeCsr v).thumb = s.thumb := rfl
@[simp] theorem State.writeCsr_ipsr (v : Word) : (s.writeCsr v).ipsr = s.ipsr := rfl
@[simp] theorem State.writeCsr_primask (v : Word) : (s.writeCsr v).primask = s.primask := rfl
@[simp] theorem State.writeCsr_spsel (v : Word) : (s.writeCsr v).spsel = s.spsel := rfl
@[simp] theorem State.writeCsr_event (v : Word) : (s.writeCsr v).event = s.event := rfl
@[simp] theorem State.writeCsr_run (v : Word) : (s.writeCsr v).run = s.run := rfl
@[simp] theorem State.writeCsr_nvic (v : Word) : (s.writeCsr v).nvic = s.nvic := rfl
@[simp] theorem State.writeCsr_scr (v : Word) : (s.writeCsr v).scr = s.scr := rfl
@[simp] theorem State.writeCsr_resetReq (v : Word) : (s.writeCsr v).resetReq = s.resetReq := rfl
@[simp] theorem State.writeCsr_mem (v : Word) : (s.writeCsr v).mem = s.mem := rfl
@[simp] theorem State.writeCsr_platform (v : Word) : (s.writeCsr v).platform = s.platform := rfl
@[simp] theorem State.writeCsr_env (v : Word) : (s.writeCsr v).env = s.env := rfl
@[simp] theorem State.writeCsr_future (v : Word) : (s.writeCsr v).future = s.future := rfl
@[simp] theorem State.writeCsr_answers (v : Word) : (s.writeCsr v).answers = s.answers := rfl
@[simp] theorem State.writeCsr_free (v : Word) : (s.writeCsr v).free = s.free := rfl

@[simp] theorem State.writeRvr_r (v : Word) : (s.writeRvr v).r = s.r := rfl
@[simp] theorem State.writeRvr_msp (v : Word) : (s.writeRvr v).msp = s.msp := rfl
@[simp] theorem State.writeRvr_psp (v : Word) : (s.writeRvr v).psp = s.psp := rfl
@[simp] theorem State.writeRvr_lr (v : Word) : (s.writeRvr v).lr = s.lr := rfl
@[simp] theorem State.writeRvr_pc (v : Word) : (s.writeRvr v).pc = s.pc := rfl
@[simp] theorem State.writeRvr_flags (v : Word) : (s.writeRvr v).flags = s.flags := rfl
@[simp] theorem State.writeRvr_thumb (v : Word) : (s.writeRvr v).thumb = s.thumb := rfl
@[simp] theorem State.writeRvr_ipsr (v : Word) : (s.writeRvr v).ipsr = s.ipsr := rfl
@[simp] theorem State.writeRvr_primask (v : Word) : (s.writeRvr v).primask = s.primask := rfl
@[simp] theorem State.writeRvr_spsel (v : Word) : (s.writeRvr v).spsel = s.spsel := rfl
@[simp] theorem State.writeRvr_event (v : Word) : (s.writeRvr v).event = s.event := rfl
@[simp] theorem State.writeRvr_run (v : Word) : (s.writeRvr v).run = s.run := rfl
@[simp] theorem State.writeRvr_nvic (v : Word) : (s.writeRvr v).nvic = s.nvic := rfl
@[simp] theorem State.writeRvr_scr (v : Word) : (s.writeRvr v).scr = s.scr := rfl
@[simp] theorem State.writeRvr_resetReq (v : Word) : (s.writeRvr v).resetReq = s.resetReq := rfl
@[simp] theorem State.writeRvr_mem (v : Word) : (s.writeRvr v).mem = s.mem := rfl
@[simp] theorem State.writeRvr_platform (v : Word) : (s.writeRvr v).platform = s.platform := rfl
@[simp] theorem State.writeRvr_env (v : Word) : (s.writeRvr v).env = s.env := rfl
@[simp] theorem State.writeRvr_future (v : Word) : (s.writeRvr v).future = s.future := rfl
@[simp] theorem State.writeRvr_answers (v : Word) : (s.writeRvr v).answers = s.answers := rfl
@[simp] theorem State.writeRvr_free (v : Word) : (s.writeRvr v).free = s.free := rfl

@[simp] theorem State.writeCvr_r : s.writeCvr.r = s.r := rfl
@[simp] theorem State.writeCvr_msp : s.writeCvr.msp = s.msp := rfl
@[simp] theorem State.writeCvr_psp : s.writeCvr.psp = s.psp := rfl
@[simp] theorem State.writeCvr_lr : s.writeCvr.lr = s.lr := rfl
@[simp] theorem State.writeCvr_pc : s.writeCvr.pc = s.pc := rfl
@[simp] theorem State.writeCvr_flags : s.writeCvr.flags = s.flags := rfl
@[simp] theorem State.writeCvr_thumb : s.writeCvr.thumb = s.thumb := rfl
@[simp] theorem State.writeCvr_ipsr : s.writeCvr.ipsr = s.ipsr := rfl
@[simp] theorem State.writeCvr_primask : s.writeCvr.primask = s.primask := rfl
@[simp] theorem State.writeCvr_spsel : s.writeCvr.spsel = s.spsel := rfl
@[simp] theorem State.writeCvr_event : s.writeCvr.event = s.event := rfl
@[simp] theorem State.writeCvr_run : s.writeCvr.run = s.run := rfl
@[simp] theorem State.writeCvr_nvic : s.writeCvr.nvic = s.nvic := rfl
@[simp] theorem State.writeCvr_scr : s.writeCvr.scr = s.scr := rfl
@[simp] theorem State.writeCvr_resetReq : s.writeCvr.resetReq = s.resetReq := rfl
@[simp] theorem State.writeCvr_mem : s.writeCvr.mem = s.mem := rfl
@[simp] theorem State.writeCvr_platform : s.writeCvr.platform = s.platform := rfl
@[simp] theorem State.writeCvr_env : s.writeCvr.env = s.env := rfl
@[simp] theorem State.writeCvr_future : s.writeCvr.future = s.future := rfl
@[simp] theorem State.writeCvr_answers : s.writeCvr.answers = s.answers := rfl
@[simp] theorem State.writeCvr_free : s.writeCvr.free = s.free := rfl

@[simp] theorem State.writeIpr_r (k : BitVec 3) (v : Word) : (s.writeIpr k v).r = s.r := rfl
@[simp] theorem State.writeIpr_msp (k : BitVec 3) (v : Word) : (s.writeIpr k v).msp = s.msp := rfl
@[simp] theorem State.writeIpr_psp (k : BitVec 3) (v : Word) : (s.writeIpr k v).psp = s.psp := rfl
@[simp] theorem State.writeIpr_lr (k : BitVec 3) (v : Word) : (s.writeIpr k v).lr = s.lr := rfl
@[simp] theorem State.writeIpr_pc (k : BitVec 3) (v : Word) : (s.writeIpr k v).pc = s.pc := rfl
@[simp] theorem State.writeIpr_flags (k : BitVec 3) (v : Word) : (s.writeIpr k v).flags = s.flags := rfl
@[simp] theorem State.writeIpr_thumb (k : BitVec 3) (v : Word) : (s.writeIpr k v).thumb = s.thumb := rfl
@[simp] theorem State.writeIpr_ipsr (k : BitVec 3) (v : Word) : (s.writeIpr k v).ipsr = s.ipsr := rfl
@[simp] theorem State.writeIpr_primask (k : BitVec 3) (v : Word) : (s.writeIpr k v).primask = s.primask := rfl
@[simp] theorem State.writeIpr_spsel (k : BitVec 3) (v : Word) : (s.writeIpr k v).spsel = s.spsel := rfl
@[simp] theorem State.writeIpr_event (k : BitVec 3) (v : Word) : (s.writeIpr k v).event = s.event := rfl
@[simp] theorem State.writeIpr_run (k : BitVec 3) (v : Word) : (s.writeIpr k v).run = s.run := rfl
@[simp] theorem State.writeIpr_scr (k : BitVec 3) (v : Word) : (s.writeIpr k v).scr = s.scr := rfl
@[simp] theorem State.writeIpr_sysTick (k : BitVec 3) (v : Word) : (s.writeIpr k v).sysTick = s.sysTick := rfl
@[simp] theorem State.writeIpr_resetReq (k : BitVec 3) (v : Word) : (s.writeIpr k v).resetReq = s.resetReq := rfl
@[simp] theorem State.writeIpr_mem (k : BitVec 3) (v : Word) : (s.writeIpr k v).mem = s.mem := rfl
@[simp] theorem State.writeIpr_platform (k : BitVec 3) (v : Word) : (s.writeIpr k v).platform = s.platform := rfl
@[simp] theorem State.writeIpr_env (k : BitVec 3) (v : Word) : (s.writeIpr k v).env = s.env := rfl
@[simp] theorem State.writeIpr_future (k : BitVec 3) (v : Word) : (s.writeIpr k v).future = s.future := rfl
@[simp] theorem State.writeIpr_answers (k : BitVec 3) (v : Word) : (s.writeIpr k v).answers = s.answers := rfl
@[simp] theorem State.writeIpr_free (k : BitVec 3) (v : Word) : (s.writeIpr k v).free = s.free := rfl

@[simp] theorem State.writeIcsr_r (v : Word) : (s.writeIcsr v).r = s.r := rfl
@[simp] theorem State.writeIcsr_msp (v : Word) : (s.writeIcsr v).msp = s.msp := rfl
@[simp] theorem State.writeIcsr_psp (v : Word) : (s.writeIcsr v).psp = s.psp := rfl
@[simp] theorem State.writeIcsr_lr (v : Word) : (s.writeIcsr v).lr = s.lr := rfl
@[simp] theorem State.writeIcsr_pc (v : Word) : (s.writeIcsr v).pc = s.pc := rfl
@[simp] theorem State.writeIcsr_flags (v : Word) : (s.writeIcsr v).flags = s.flags := rfl
@[simp] theorem State.writeIcsr_thumb (v : Word) : (s.writeIcsr v).thumb = s.thumb := rfl
@[simp] theorem State.writeIcsr_ipsr (v : Word) : (s.writeIcsr v).ipsr = s.ipsr := rfl
@[simp] theorem State.writeIcsr_primask (v : Word) : (s.writeIcsr v).primask = s.primask := rfl
@[simp] theorem State.writeIcsr_spsel (v : Word) : (s.writeIcsr v).spsel = s.spsel := rfl
@[simp] theorem State.writeIcsr_event (v : Word) : (s.writeIcsr v).event = s.event := rfl
@[simp] theorem State.writeIcsr_run (v : Word) : (s.writeIcsr v).run = s.run := rfl
@[simp] theorem State.writeIcsr_scr (v : Word) : (s.writeIcsr v).scr = s.scr := rfl
@[simp] theorem State.writeIcsr_sysTick (v : Word) : (s.writeIcsr v).sysTick = s.sysTick := rfl
@[simp] theorem State.writeIcsr_resetReq (v : Word) : (s.writeIcsr v).resetReq = s.resetReq := rfl
@[simp] theorem State.writeIcsr_mem (v : Word) : (s.writeIcsr v).mem = s.mem := rfl
@[simp] theorem State.writeIcsr_platform (v : Word) : (s.writeIcsr v).platform = s.platform := rfl
@[simp] theorem State.writeIcsr_env (v : Word) : (s.writeIcsr v).env = s.env := rfl
@[simp] theorem State.writeIcsr_future (v : Word) : (s.writeIcsr v).future = s.future := rfl
@[simp] theorem State.writeIcsr_answers (v : Word) : (s.writeIcsr v).answers = s.answers := rfl
@[simp] theorem State.writeIcsr_free (v : Word) : (s.writeIcsr v).free = s.free + 1 := rfl

@[simp] theorem State.requestReset_r (q : Bool) : (s.requestReset q).r = s.r := rfl
@[simp] theorem State.requestReset_msp (q : Bool) : (s.requestReset q).msp = s.msp := rfl
@[simp] theorem State.requestReset_psp (q : Bool) : (s.requestReset q).psp = s.psp := rfl
@[simp] theorem State.requestReset_lr (q : Bool) : (s.requestReset q).lr = s.lr := rfl
@[simp] theorem State.requestReset_pc (q : Bool) : (s.requestReset q).pc = s.pc := rfl
@[simp] theorem State.requestReset_flags (q : Bool) : (s.requestReset q).flags = s.flags := rfl
@[simp] theorem State.requestReset_thumb (q : Bool) : (s.requestReset q).thumb = s.thumb := rfl
@[simp] theorem State.requestReset_ipsr (q : Bool) : (s.requestReset q).ipsr = s.ipsr := rfl
@[simp] theorem State.requestReset_primask (q : Bool) : (s.requestReset q).primask = s.primask := rfl
@[simp] theorem State.requestReset_spsel (q : Bool) : (s.requestReset q).spsel = s.spsel := rfl
@[simp] theorem State.requestReset_event (q : Bool) : (s.requestReset q).event = s.event := rfl
@[simp] theorem State.requestReset_run (q : Bool) : (s.requestReset q).run = s.run := rfl
@[simp] theorem State.requestReset_nvic (q : Bool) : (s.requestReset q).nvic = s.nvic := rfl
@[simp] theorem State.requestReset_scr (q : Bool) : (s.requestReset q).scr = s.scr := rfl
@[simp] theorem State.requestReset_sysTick (q : Bool) : (s.requestReset q).sysTick = s.sysTick := rfl
@[simp] theorem State.requestReset_resetReq (q : Bool) : (s.requestReset q).resetReq = (s.resetReq || q) := rfl
@[simp] theorem State.requestReset_mem (q : Bool) : (s.requestReset q).mem = s.mem := rfl
@[simp] theorem State.requestReset_platform (q : Bool) : (s.requestReset q).platform = s.platform := rfl
@[simp] theorem State.requestReset_env (q : Bool) : (s.requestReset q).env = s.env := rfl
@[simp] theorem State.requestReset_future (q : Bool) : (s.requestReset q).future = s.future := rfl
@[simp] theorem State.requestReset_answers (q : Bool) : (s.requestReset q).answers = s.answers := rfl
@[simp] theorem State.requestReset_free (q : Bool) : (s.requestReset q).free = s.free := rfl

@[simp] theorem State.writeScr_r (v : Word) : (s.writeScr v).r = s.r := rfl
@[simp] theorem State.writeScr_msp (v : Word) : (s.writeScr v).msp = s.msp := rfl
@[simp] theorem State.writeScr_psp (v : Word) : (s.writeScr v).psp = s.psp := rfl
@[simp] theorem State.writeScr_lr (v : Word) : (s.writeScr v).lr = s.lr := rfl
@[simp] theorem State.writeScr_pc (v : Word) : (s.writeScr v).pc = s.pc := rfl
@[simp] theorem State.writeScr_flags (v : Word) : (s.writeScr v).flags = s.flags := rfl
@[simp] theorem State.writeScr_thumb (v : Word) : (s.writeScr v).thumb = s.thumb := rfl
@[simp] theorem State.writeScr_ipsr (v : Word) : (s.writeScr v).ipsr = s.ipsr := rfl
@[simp] theorem State.writeScr_primask (v : Word) : (s.writeScr v).primask = s.primask := rfl
@[simp] theorem State.writeScr_spsel (v : Word) : (s.writeScr v).spsel = s.spsel := rfl
@[simp] theorem State.writeScr_event (v : Word) : (s.writeScr v).event = s.event := rfl
@[simp] theorem State.writeScr_run (v : Word) : (s.writeScr v).run = s.run := rfl
@[simp] theorem State.writeScr_nvic (v : Word) : (s.writeScr v).nvic = s.nvic := rfl
@[simp] theorem State.writeScr_sysTick (v : Word) : (s.writeScr v).sysTick = s.sysTick := rfl
@[simp] theorem State.writeScr_resetReq (v : Word) : (s.writeScr v).resetReq = s.resetReq := rfl
@[simp] theorem State.writeScr_mem (v : Word) : (s.writeScr v).mem = s.mem := rfl
@[simp] theorem State.writeScr_platform (v : Word) : (s.writeScr v).platform = s.platform := rfl
@[simp] theorem State.writeScr_env (v : Word) : (s.writeScr v).env = s.env := rfl
@[simp] theorem State.writeScr_future (v : Word) : (s.writeScr v).future = s.future := rfl
@[simp] theorem State.writeScr_answers (v : Word) : (s.writeScr v).answers = s.answers := rfl
@[simp] theorem State.writeScr_free (v : Word) : (s.writeScr v).free = s.free := rfl

@[simp] theorem State.writeShpr2_r (v : Word) : (s.writeShpr2 v).r = s.r := rfl
@[simp] theorem State.writeShpr2_msp (v : Word) : (s.writeShpr2 v).msp = s.msp := rfl
@[simp] theorem State.writeShpr2_psp (v : Word) : (s.writeShpr2 v).psp = s.psp := rfl
@[simp] theorem State.writeShpr2_lr (v : Word) : (s.writeShpr2 v).lr = s.lr := rfl
@[simp] theorem State.writeShpr2_pc (v : Word) : (s.writeShpr2 v).pc = s.pc := rfl
@[simp] theorem State.writeShpr2_flags (v : Word) : (s.writeShpr2 v).flags = s.flags := rfl
@[simp] theorem State.writeShpr2_thumb (v : Word) : (s.writeShpr2 v).thumb = s.thumb := rfl
@[simp] theorem State.writeShpr2_ipsr (v : Word) : (s.writeShpr2 v).ipsr = s.ipsr := rfl
@[simp] theorem State.writeShpr2_primask (v : Word) : (s.writeShpr2 v).primask = s.primask := rfl
@[simp] theorem State.writeShpr2_spsel (v : Word) : (s.writeShpr2 v).spsel = s.spsel := rfl
@[simp] theorem State.writeShpr2_event (v : Word) : (s.writeShpr2 v).event = s.event := rfl
@[simp] theorem State.writeShpr2_run (v : Word) : (s.writeShpr2 v).run = s.run := rfl
@[simp] theorem State.writeShpr2_scr (v : Word) : (s.writeShpr2 v).scr = s.scr := rfl
@[simp] theorem State.writeShpr2_sysTick (v : Word) : (s.writeShpr2 v).sysTick = s.sysTick := rfl
@[simp] theorem State.writeShpr2_resetReq (v : Word) : (s.writeShpr2 v).resetReq = s.resetReq := rfl
@[simp] theorem State.writeShpr2_mem (v : Word) : (s.writeShpr2 v).mem = s.mem := rfl
@[simp] theorem State.writeShpr2_platform (v : Word) : (s.writeShpr2 v).platform = s.platform := rfl
@[simp] theorem State.writeShpr2_env (v : Word) : (s.writeShpr2 v).env = s.env := rfl
@[simp] theorem State.writeShpr2_future (v : Word) : (s.writeShpr2 v).future = s.future := rfl
@[simp] theorem State.writeShpr2_answers (v : Word) : (s.writeShpr2 v).answers = s.answers := rfl
@[simp] theorem State.writeShpr2_free (v : Word) : (s.writeShpr2 v).free = s.free := rfl

@[simp] theorem State.writeShpr3_r (v : Word) : (s.writeShpr3 v).r = s.r := rfl
@[simp] theorem State.writeShpr3_msp (v : Word) : (s.writeShpr3 v).msp = s.msp := rfl
@[simp] theorem State.writeShpr3_psp (v : Word) : (s.writeShpr3 v).psp = s.psp := rfl
@[simp] theorem State.writeShpr3_lr (v : Word) : (s.writeShpr3 v).lr = s.lr := rfl
@[simp] theorem State.writeShpr3_pc (v : Word) : (s.writeShpr3 v).pc = s.pc := rfl
@[simp] theorem State.writeShpr3_flags (v : Word) : (s.writeShpr3 v).flags = s.flags := rfl
@[simp] theorem State.writeShpr3_thumb (v : Word) : (s.writeShpr3 v).thumb = s.thumb := rfl
@[simp] theorem State.writeShpr3_ipsr (v : Word) : (s.writeShpr3 v).ipsr = s.ipsr := rfl
@[simp] theorem State.writeShpr3_primask (v : Word) : (s.writeShpr3 v).primask = s.primask := rfl
@[simp] theorem State.writeShpr3_spsel (v : Word) : (s.writeShpr3 v).spsel = s.spsel := rfl
@[simp] theorem State.writeShpr3_event (v : Word) : (s.writeShpr3 v).event = s.event := rfl
@[simp] theorem State.writeShpr3_run (v : Word) : (s.writeShpr3 v).run = s.run := rfl
@[simp] theorem State.writeShpr3_scr (v : Word) : (s.writeShpr3 v).scr = s.scr := rfl
@[simp] theorem State.writeShpr3_sysTick (v : Word) : (s.writeShpr3 v).sysTick = s.sysTick := rfl
@[simp] theorem State.writeShpr3_resetReq (v : Word) : (s.writeShpr3 v).resetReq = s.resetReq := rfl
@[simp] theorem State.writeShpr3_mem (v : Word) : (s.writeShpr3 v).mem = s.mem := rfl
@[simp] theorem State.writeShpr3_platform (v : Word) : (s.writeShpr3 v).platform = s.platform := rfl
@[simp] theorem State.writeShpr3_env (v : Word) : (s.writeShpr3 v).env = s.env := rfl
@[simp] theorem State.writeShpr3_future (v : Word) : (s.writeShpr3 v).future = s.future := rfl
@[simp] theorem State.writeShpr3_answers (v : Word) : (s.writeShpr3 v).answers = s.answers := rfl
@[simp] theorem State.writeShpr3_free (v : Word) : (s.writeShpr3 v).free = s.free := rfl

@[simp] theorem State.enableIrqs_r (v : Word) : (s.enableIrqs v).r = s.r := rfl
@[simp] theorem State.enableIrqs_msp (v : Word) : (s.enableIrqs v).msp = s.msp := rfl
@[simp] theorem State.enableIrqs_psp (v : Word) : (s.enableIrqs v).psp = s.psp := rfl
@[simp] theorem State.enableIrqs_lr (v : Word) : (s.enableIrqs v).lr = s.lr := rfl
@[simp] theorem State.enableIrqs_pc (v : Word) : (s.enableIrqs v).pc = s.pc := rfl
@[simp] theorem State.enableIrqs_flags (v : Word) : (s.enableIrqs v).flags = s.flags := rfl
@[simp] theorem State.enableIrqs_thumb (v : Word) : (s.enableIrqs v).thumb = s.thumb := rfl
@[simp] theorem State.enableIrqs_ipsr (v : Word) : (s.enableIrqs v).ipsr = s.ipsr := rfl
@[simp] theorem State.enableIrqs_primask (v : Word) : (s.enableIrqs v).primask = s.primask := rfl
@[simp] theorem State.enableIrqs_spsel (v : Word) : (s.enableIrqs v).spsel = s.spsel := rfl
@[simp] theorem State.enableIrqs_event (v : Word) : (s.enableIrqs v).event = s.event := rfl
@[simp] theorem State.enableIrqs_run (v : Word) : (s.enableIrqs v).run = s.run := rfl
@[simp] theorem State.enableIrqs_scr (v : Word) : (s.enableIrqs v).scr = s.scr := rfl
@[simp] theorem State.enableIrqs_sysTick (v : Word) : (s.enableIrqs v).sysTick = s.sysTick := rfl
@[simp] theorem State.enableIrqs_resetReq (v : Word) : (s.enableIrqs v).resetReq = s.resetReq := rfl
@[simp] theorem State.enableIrqs_mem (v : Word) : (s.enableIrqs v).mem = s.mem := rfl
@[simp] theorem State.enableIrqs_platform (v : Word) : (s.enableIrqs v).platform = s.platform := rfl
@[simp] theorem State.enableIrqs_env (v : Word) : (s.enableIrqs v).env = s.env := rfl
@[simp] theorem State.enableIrqs_future (v : Word) : (s.enableIrqs v).future = s.future := rfl
@[simp] theorem State.enableIrqs_answers (v : Word) : (s.enableIrqs v).answers = s.answers := rfl
@[simp] theorem State.enableIrqs_free (v : Word) : (s.enableIrqs v).free = s.free := rfl

@[simp] theorem State.disableIrqs_r (v : Word) : (s.disableIrqs v).r = s.r := rfl
@[simp] theorem State.disableIrqs_msp (v : Word) : (s.disableIrqs v).msp = s.msp := rfl
@[simp] theorem State.disableIrqs_psp (v : Word) : (s.disableIrqs v).psp = s.psp := rfl
@[simp] theorem State.disableIrqs_lr (v : Word) : (s.disableIrqs v).lr = s.lr := rfl
@[simp] theorem State.disableIrqs_pc (v : Word) : (s.disableIrqs v).pc = s.pc := rfl
@[simp] theorem State.disableIrqs_flags (v : Word) : (s.disableIrqs v).flags = s.flags := rfl
@[simp] theorem State.disableIrqs_thumb (v : Word) : (s.disableIrqs v).thumb = s.thumb := rfl
@[simp] theorem State.disableIrqs_ipsr (v : Word) : (s.disableIrqs v).ipsr = s.ipsr := rfl
@[simp] theorem State.disableIrqs_primask (v : Word) : (s.disableIrqs v).primask = s.primask := rfl
@[simp] theorem State.disableIrqs_spsel (v : Word) : (s.disableIrqs v).spsel = s.spsel := rfl
@[simp] theorem State.disableIrqs_event (v : Word) : (s.disableIrqs v).event = s.event := rfl
@[simp] theorem State.disableIrqs_run (v : Word) : (s.disableIrqs v).run = s.run := rfl
@[simp] theorem State.disableIrqs_scr (v : Word) : (s.disableIrqs v).scr = s.scr := rfl
@[simp] theorem State.disableIrqs_sysTick (v : Word) : (s.disableIrqs v).sysTick = s.sysTick := rfl
@[simp] theorem State.disableIrqs_resetReq (v : Word) : (s.disableIrqs v).resetReq = s.resetReq := rfl
@[simp] theorem State.disableIrqs_mem (v : Word) : (s.disableIrqs v).mem = s.mem := rfl
@[simp] theorem State.disableIrqs_platform (v : Word) : (s.disableIrqs v).platform = s.platform := rfl
@[simp] theorem State.disableIrqs_env (v : Word) : (s.disableIrqs v).env = s.env := rfl
@[simp] theorem State.disableIrqs_future (v : Word) : (s.disableIrqs v).future = s.future := rfl
@[simp] theorem State.disableIrqs_answers (v : Word) : (s.disableIrqs v).answers = s.answers := rfl
@[simp] theorem State.disableIrqs_free (v : Word) : (s.disableIrqs v).free = s.free := rfl

@[simp] theorem State.unpendIrqs_r (v : Word) : (s.unpendIrqs v).r = s.r := rfl
@[simp] theorem State.unpendIrqs_msp (v : Word) : (s.unpendIrqs v).msp = s.msp := rfl
@[simp] theorem State.unpendIrqs_psp (v : Word) : (s.unpendIrqs v).psp = s.psp := rfl
@[simp] theorem State.unpendIrqs_lr (v : Word) : (s.unpendIrqs v).lr = s.lr := rfl
@[simp] theorem State.unpendIrqs_pc (v : Word) : (s.unpendIrqs v).pc = s.pc := rfl
@[simp] theorem State.unpendIrqs_flags (v : Word) : (s.unpendIrqs v).flags = s.flags := rfl
@[simp] theorem State.unpendIrqs_thumb (v : Word) : (s.unpendIrqs v).thumb = s.thumb := rfl
@[simp] theorem State.unpendIrqs_ipsr (v : Word) : (s.unpendIrqs v).ipsr = s.ipsr := rfl
@[simp] theorem State.unpendIrqs_primask (v : Word) : (s.unpendIrqs v).primask = s.primask := rfl
@[simp] theorem State.unpendIrqs_spsel (v : Word) : (s.unpendIrqs v).spsel = s.spsel := rfl
@[simp] theorem State.unpendIrqs_event (v : Word) : (s.unpendIrqs v).event = s.event := rfl
@[simp] theorem State.unpendIrqs_run (v : Word) : (s.unpendIrqs v).run = s.run := rfl
@[simp] theorem State.unpendIrqs_scr (v : Word) : (s.unpendIrqs v).scr = s.scr := rfl
@[simp] theorem State.unpendIrqs_sysTick (v : Word) : (s.unpendIrqs v).sysTick = s.sysTick := rfl
@[simp] theorem State.unpendIrqs_resetReq (v : Word) : (s.unpendIrqs v).resetReq = s.resetReq := rfl
@[simp] theorem State.unpendIrqs_mem (v : Word) : (s.unpendIrqs v).mem = s.mem := rfl
@[simp] theorem State.unpendIrqs_platform (v : Word) : (s.unpendIrqs v).platform = s.platform := rfl
@[simp] theorem State.unpendIrqs_env (v : Word) : (s.unpendIrqs v).env = s.env := rfl
@[simp] theorem State.unpendIrqs_future (v : Word) : (s.unpendIrqs v).future = s.future := rfl
@[simp] theorem State.unpendIrqs_answers (v : Word) : (s.unpendIrqs v).answers = s.answers := rfl
@[simp] theorem State.unpendIrqs_free (v : Word) : (s.unpendIrqs v).free = s.free := rfl

@[simp] theorem State.pendIrqs_nvic_pending (w : BitVec 32) : (s.pendIrqs w).nvic.pending = (s.nvic.pending ||| ofIrqBits w) := rfl
@[simp] theorem State.pendIrqs_nvic_active (w : BitVec 32) : (s.pendIrqs w).nvic.active = s.nvic.active := rfl
@[simp] theorem State.pendIrqs_nvic_enable (w : BitVec 32) : (s.pendIrqs w).nvic.enable = s.nvic.enable := rfl
@[simp] theorem State.pendIrqs_nvic_irqPrio (w : BitVec 32) : (s.pendIrqs w).nvic.irqPrio = s.nvic.irqPrio := rfl
@[simp] theorem State.pendIrqs_nvic_svcPrio (w : BitVec 32) : (s.pendIrqs w).nvic.svcPrio = s.nvic.svcPrio := rfl
@[simp] theorem State.pendIrqs_nvic_pendSvPrio (w : BitVec 32) : (s.pendIrqs w).nvic.pendSvPrio = s.nvic.pendSvPrio := rfl
@[simp] theorem State.pendIrqs_nvic_sysTickPrio (w : BitVec 32) : (s.pendIrqs w).nvic.sysTickPrio = s.nvic.sysTickPrio := rfl
@[simp] theorem State.pendIrqs_nvic_linePrev (w : BitVec 32) : (s.pendIrqs w).nvic.linePrev = s.nvic.linePrev := rfl

@[simp] theorem State.rememberLines_nvic_pending (w : BitVec 32) : (s.rememberLines w).nvic.pending = s.nvic.pending := rfl
@[simp] theorem State.rememberLines_nvic_active (w : BitVec 32) : (s.rememberLines w).nvic.active = s.nvic.active := rfl
@[simp] theorem State.rememberLines_nvic_enable (w : BitVec 32) : (s.rememberLines w).nvic.enable = s.nvic.enable := rfl
@[simp] theorem State.rememberLines_nvic_irqPrio (w : BitVec 32) : (s.rememberLines w).nvic.irqPrio = s.nvic.irqPrio := rfl
@[simp] theorem State.rememberLines_nvic_svcPrio (w : BitVec 32) : (s.rememberLines w).nvic.svcPrio = s.nvic.svcPrio := rfl
@[simp] theorem State.rememberLines_nvic_pendSvPrio (w : BitVec 32) : (s.rememberLines w).nvic.pendSvPrio = s.nvic.pendSvPrio := rfl
@[simp] theorem State.rememberLines_nvic_sysTickPrio (w : BitVec 32) : (s.rememberLines w).nvic.sysTickPrio = s.nvic.sysTickPrio := rfl
@[simp] theorem State.rememberLines_nvic_linePrev (w : BitVec 32) : (s.rememberLines w).nvic.linePrev = w := rfl

@[simp] theorem State.writeIpr_nvic_pending (k : BitVec 3) (v : Word) : (s.writeIpr k v).nvic.pending = s.nvic.pending := rfl
@[simp] theorem State.writeIpr_nvic_active (k : BitVec 3) (v : Word) : (s.writeIpr k v).nvic.active = s.nvic.active := rfl
@[simp] theorem State.writeIpr_nvic_enable (k : BitVec 3) (v : Word) : (s.writeIpr k v).nvic.enable = s.nvic.enable := rfl
@[simp] theorem State.writeIpr_nvic_svcPrio (k : BitVec 3) (v : Word) : (s.writeIpr k v).nvic.svcPrio = s.nvic.svcPrio := rfl
@[simp] theorem State.writeIpr_nvic_pendSvPrio (k : BitVec 3) (v : Word) : (s.writeIpr k v).nvic.pendSvPrio = s.nvic.pendSvPrio := rfl
@[simp] theorem State.writeIpr_nvic_sysTickPrio (k : BitVec 3) (v : Word) : (s.writeIpr k v).nvic.sysTickPrio = s.nvic.sysTickPrio := rfl
@[simp] theorem State.writeIpr_nvic_linePrev (k : BitVec 3) (v : Word) : (s.writeIpr k v).nvic.linePrev = s.nvic.linePrev := rfl

@[simp] theorem State.writeIcsr_nvic_active (v : Word) : (s.writeIcsr v).nvic.active = s.nvic.active := rfl
@[simp] theorem State.writeIcsr_nvic_enable (v : Word) : (s.writeIcsr v).nvic.enable = s.nvic.enable := rfl
@[simp] theorem State.writeIcsr_nvic_irqPrio (v : Word) : (s.writeIcsr v).nvic.irqPrio = s.nvic.irqPrio := rfl
@[simp] theorem State.writeIcsr_nvic_svcPrio (v : Word) : (s.writeIcsr v).nvic.svcPrio = s.nvic.svcPrio := rfl
@[simp] theorem State.writeIcsr_nvic_pendSvPrio (v : Word) : (s.writeIcsr v).nvic.pendSvPrio = s.nvic.pendSvPrio := rfl
@[simp] theorem State.writeIcsr_nvic_sysTickPrio (v : Word) : (s.writeIcsr v).nvic.sysTickPrio = s.nvic.sysTickPrio := rfl
@[simp] theorem State.writeIcsr_nvic_linePrev (v : Word) : (s.writeIcsr v).nvic.linePrev = s.nvic.linePrev := rfl

@[simp] theorem State.writeShpr2_nvic_pending (v : Word) : (s.writeShpr2 v).nvic.pending = s.nvic.pending := rfl
@[simp] theorem State.writeShpr2_nvic_active (v : Word) : (s.writeShpr2 v).nvic.active = s.nvic.active := rfl
@[simp] theorem State.writeShpr2_nvic_enable (v : Word) : (s.writeShpr2 v).nvic.enable = s.nvic.enable := rfl
@[simp] theorem State.writeShpr2_nvic_irqPrio (v : Word) : (s.writeShpr2 v).nvic.irqPrio = s.nvic.irqPrio := rfl
@[simp] theorem State.writeShpr2_nvic_svcPrio (v : Word) : (s.writeShpr2 v).nvic.svcPrio = levelOf v 24 := rfl
@[simp] theorem State.writeShpr2_nvic_pendSvPrio (v : Word) : (s.writeShpr2 v).nvic.pendSvPrio = s.nvic.pendSvPrio := rfl
@[simp] theorem State.writeShpr2_nvic_sysTickPrio (v : Word) : (s.writeShpr2 v).nvic.sysTickPrio = s.nvic.sysTickPrio := rfl
@[simp] theorem State.writeShpr2_nvic_linePrev (v : Word) : (s.writeShpr2 v).nvic.linePrev = s.nvic.linePrev := rfl

@[simp] theorem State.writeShpr3_nvic_pending (v : Word) : (s.writeShpr3 v).nvic.pending = s.nvic.pending := rfl
@[simp] theorem State.writeShpr3_nvic_active (v : Word) : (s.writeShpr3 v).nvic.active = s.nvic.active := rfl
@[simp] theorem State.writeShpr3_nvic_enable (v : Word) : (s.writeShpr3 v).nvic.enable = s.nvic.enable := rfl
@[simp] theorem State.writeShpr3_nvic_irqPrio (v : Word) : (s.writeShpr3 v).nvic.irqPrio = s.nvic.irqPrio := rfl
@[simp] theorem State.writeShpr3_nvic_svcPrio (v : Word) : (s.writeShpr3 v).nvic.svcPrio = s.nvic.svcPrio := rfl
@[simp] theorem State.writeShpr3_nvic_pendSvPrio (v : Word) : (s.writeShpr3 v).nvic.pendSvPrio = levelOf v 16 := rfl
@[simp] theorem State.writeShpr3_nvic_sysTickPrio (v : Word) : (s.writeShpr3 v).nvic.sysTickPrio = levelOf v 24 := rfl
@[simp] theorem State.writeShpr3_nvic_linePrev (v : Word) : (s.writeShpr3 v).nvic.linePrev = s.nvic.linePrev := rfl

@[simp] theorem State.enableIrqs_nvic_pending (v : Word) : (s.enableIrqs v).nvic.pending = s.nvic.pending := rfl
@[simp] theorem State.enableIrqs_nvic_active (v : Word) : (s.enableIrqs v).nvic.active = s.nvic.active := rfl
@[simp] theorem State.enableIrqs_nvic_enable (v : Word) : (s.enableIrqs v).nvic.enable = (s.nvic.enable ||| v) := rfl
@[simp] theorem State.enableIrqs_nvic_irqPrio (v : Word) : (s.enableIrqs v).nvic.irqPrio = s.nvic.irqPrio := rfl
@[simp] theorem State.enableIrqs_nvic_svcPrio (v : Word) : (s.enableIrqs v).nvic.svcPrio = s.nvic.svcPrio := rfl
@[simp] theorem State.enableIrqs_nvic_pendSvPrio (v : Word) : (s.enableIrqs v).nvic.pendSvPrio = s.nvic.pendSvPrio := rfl
@[simp] theorem State.enableIrqs_nvic_sysTickPrio (v : Word) : (s.enableIrqs v).nvic.sysTickPrio = s.nvic.sysTickPrio := rfl
@[simp] theorem State.enableIrqs_nvic_linePrev (v : Word) : (s.enableIrqs v).nvic.linePrev = s.nvic.linePrev := rfl

@[simp] theorem State.disableIrqs_nvic_pending (v : Word) : (s.disableIrqs v).nvic.pending = s.nvic.pending := rfl
@[simp] theorem State.disableIrqs_nvic_active (v : Word) : (s.disableIrqs v).nvic.active = s.nvic.active := rfl
@[simp] theorem State.disableIrqs_nvic_enable (v : Word) : (s.disableIrqs v).nvic.enable = (s.nvic.enable &&& ~~~v) := rfl
@[simp] theorem State.disableIrqs_nvic_irqPrio (v : Word) : (s.disableIrqs v).nvic.irqPrio = s.nvic.irqPrio := rfl
@[simp] theorem State.disableIrqs_nvic_svcPrio (v : Word) : (s.disableIrqs v).nvic.svcPrio = s.nvic.svcPrio := rfl
@[simp] theorem State.disableIrqs_nvic_pendSvPrio (v : Word) : (s.disableIrqs v).nvic.pendSvPrio = s.nvic.pendSvPrio := rfl
@[simp] theorem State.disableIrqs_nvic_sysTickPrio (v : Word) : (s.disableIrqs v).nvic.sysTickPrio = s.nvic.sysTickPrio := rfl
@[simp] theorem State.disableIrqs_nvic_linePrev (v : Word) : (s.disableIrqs v).nvic.linePrev = s.nvic.linePrev := rfl

@[simp] theorem State.unpendIrqs_nvic_pending (v : Word) : (s.unpendIrqs v).nvic.pending = (s.nvic.pending &&& ~~~(ofIrqBits v)) := rfl
@[simp] theorem State.unpendIrqs_nvic_active (v : Word) : (s.unpendIrqs v).nvic.active = s.nvic.active := rfl
@[simp] theorem State.unpendIrqs_nvic_enable (v : Word) : (s.unpendIrqs v).nvic.enable = s.nvic.enable := rfl
@[simp] theorem State.unpendIrqs_nvic_irqPrio (v : Word) : (s.unpendIrqs v).nvic.irqPrio = s.nvic.irqPrio := rfl
@[simp] theorem State.unpendIrqs_nvic_svcPrio (v : Word) : (s.unpendIrqs v).nvic.svcPrio = s.nvic.svcPrio := rfl
@[simp] theorem State.unpendIrqs_nvic_pendSvPrio (v : Word) : (s.unpendIrqs v).nvic.pendSvPrio = s.nvic.pendSvPrio := rfl
@[simp] theorem State.unpendIrqs_nvic_sysTickPrio (v : Word) : (s.unpendIrqs v).nvic.sysTickPrio = s.nvic.sysTickPrio := rfl
@[simp] theorem State.unpendIrqs_nvic_linePrev (v : Word) : (s.unpendIrqs v).nvic.linePrev = s.nvic.linePrev := rfl

@[simp] theorem State.clearCountFlag_sysTick_enable : s.clearCountFlag.sysTick.enable = s.sysTick.enable := rfl
@[simp] theorem State.clearCountFlag_sysTick_tickInt : s.clearCountFlag.sysTick.tickInt = s.sysTick.tickInt := rfl
@[simp] theorem State.clearCountFlag_sysTick_clkSource : s.clearCountFlag.sysTick.clkSource = s.sysTick.clkSource := rfl
@[simp] theorem State.clearCountFlag_sysTick_countFlag : s.clearCountFlag.sysTick.countFlag = false := rfl
@[simp] theorem State.clearCountFlag_sysTick_reload : s.clearCountFlag.sysTick.reload = s.sysTick.reload := rfl
@[simp] theorem State.clearCountFlag_sysTick_current : s.clearCountFlag.sysTick.current = s.sysTick.current := rfl

@[simp] theorem State.writeCsr_sysTick_enable (v : Word) : (s.writeCsr v).sysTick.enable = v.getLsbD 0 := rfl
@[simp] theorem State.writeCsr_sysTick_tickInt (v : Word) : (s.writeCsr v).sysTick.tickInt = v.getLsbD 1 := rfl
@[simp] theorem State.writeCsr_sysTick_clkSource (v : Word) : (s.writeCsr v).sysTick.clkSource = v.getLsbD 2 := rfl
@[simp] theorem State.writeCsr_sysTick_countFlag (v : Word) : (s.writeCsr v).sysTick.countFlag = s.sysTick.countFlag := rfl
@[simp] theorem State.writeCsr_sysTick_reload (v : Word) : (s.writeCsr v).sysTick.reload = s.sysTick.reload := rfl
@[simp] theorem State.writeCsr_sysTick_current (v : Word) : (s.writeCsr v).sysTick.current = s.sysTick.current := rfl

@[simp] theorem State.writeRvr_sysTick_enable (v : Word) : (s.writeRvr v).sysTick.enable = s.sysTick.enable := rfl
@[simp] theorem State.writeRvr_sysTick_tickInt (v : Word) : (s.writeRvr v).sysTick.tickInt = s.sysTick.tickInt := rfl
@[simp] theorem State.writeRvr_sysTick_clkSource (v : Word) : (s.writeRvr v).sysTick.clkSource = s.sysTick.clkSource := rfl
@[simp] theorem State.writeRvr_sysTick_countFlag (v : Word) : (s.writeRvr v).sysTick.countFlag = s.sysTick.countFlag := rfl
@[simp] theorem State.writeRvr_sysTick_reload (v : Word) : (s.writeRvr v).sysTick.reload = v.setWidth 24 := rfl
@[simp] theorem State.writeRvr_sysTick_current (v : Word) : (s.writeRvr v).sysTick.current = s.sysTick.current := rfl

@[simp] theorem State.writeCvr_sysTick_enable : s.writeCvr.sysTick.enable = s.sysTick.enable := rfl
@[simp] theorem State.writeCvr_sysTick_tickInt : s.writeCvr.sysTick.tickInt = s.sysTick.tickInt := rfl
@[simp] theorem State.writeCvr_sysTick_clkSource : s.writeCvr.sysTick.clkSource = s.sysTick.clkSource := rfl
@[simp] theorem State.writeCvr_sysTick_countFlag : s.writeCvr.sysTick.countFlag = false := rfl
@[simp] theorem State.writeCvr_sysTick_reload : s.writeCvr.sysTick.reload = s.sysTick.reload := rfl
@[simp] theorem State.writeCvr_sysTick_current : s.writeCvr.sysTick.current = 0 := rfl

@[simp] theorem Nvic.pend_pending (v : Nvic) (n : Nat) : (v.pend n).pending = setBit v.pending n := rfl
@[simp] theorem Nvic.pend_active (v : Nvic) (n : Nat) : (v.pend n).active = v.active := rfl
@[simp] theorem Nvic.pend_enable (v : Nvic) (n : Nat) : (v.pend n).enable = v.enable := rfl
@[simp] theorem Nvic.pend_irqPrio (v : Nvic) (n : Nat) : (v.pend n).irqPrio = v.irqPrio := rfl
@[simp] theorem Nvic.pend_svcPrio (v : Nvic) (n : Nat) : (v.pend n).svcPrio = v.svcPrio := rfl
@[simp] theorem Nvic.pend_pendSvPrio (v : Nvic) (n : Nat) : (v.pend n).pendSvPrio = v.pendSvPrio := rfl
@[simp] theorem Nvic.pend_sysTickPrio (v : Nvic) (n : Nat) : (v.pend n).sysTickPrio = v.sysTickPrio := rfl
@[simp] theorem Nvic.pend_linePrev (v : Nvic) (n : Nat) : (v.pend n).linePrev = v.linePrev := rfl

@[simp] theorem Nvic.unpend_pending (v : Nvic) (n : Nat) : (v.unpend n).pending = clearBit v.pending n := rfl
@[simp] theorem Nvic.unpend_active (v : Nvic) (n : Nat) : (v.unpend n).active = v.active := rfl
@[simp] theorem Nvic.unpend_enable (v : Nvic) (n : Nat) : (v.unpend n).enable = v.enable := rfl
@[simp] theorem Nvic.unpend_irqPrio (v : Nvic) (n : Nat) : (v.unpend n).irqPrio = v.irqPrio := rfl
@[simp] theorem Nvic.unpend_svcPrio (v : Nvic) (n : Nat) : (v.unpend n).svcPrio = v.svcPrio := rfl
@[simp] theorem Nvic.unpend_pendSvPrio (v : Nvic) (n : Nat) : (v.unpend n).pendSvPrio = v.pendSvPrio := rfl
@[simp] theorem Nvic.unpend_sysTickPrio (v : Nvic) (n : Nat) : (v.unpend n).sysTickPrio = v.sysTickPrio := rfl
@[simp] theorem Nvic.unpend_linePrev (v : Nvic) (n : Nat) : (v.unpend n).linePrev = v.linePrev := rfl

@[simp] theorem Nvic.activate_pending (v : Nvic) (n : Nat) : (v.activate n).pending = clearBit v.pending n := rfl
@[simp] theorem Nvic.activate_active (v : Nvic) (n : Nat) : (v.activate n).active = setBit v.active n := rfl
@[simp] theorem Nvic.activate_enable (v : Nvic) (n : Nat) : (v.activate n).enable = v.enable := rfl
@[simp] theorem Nvic.activate_irqPrio (v : Nvic) (n : Nat) : (v.activate n).irqPrio = v.irqPrio := rfl
@[simp] theorem Nvic.activate_svcPrio (v : Nvic) (n : Nat) : (v.activate n).svcPrio = v.svcPrio := rfl
@[simp] theorem Nvic.activate_pendSvPrio (v : Nvic) (n : Nat) : (v.activate n).pendSvPrio = v.pendSvPrio := rfl
@[simp] theorem Nvic.activate_sysTickPrio (v : Nvic) (n : Nat) : (v.activate n).sysTickPrio = v.sysTickPrio := rfl
@[simp] theorem Nvic.activate_linePrev (v : Nvic) (n : Nat) : (v.activate n).linePrev = v.linePrev := rfl

@[simp] theorem Nvic.deactivate_pending (v : Nvic) (n : Nat) : (v.deactivate n).pending = v.pending := rfl
@[simp] theorem Nvic.deactivate_active (v : Nvic) (n : Nat) : (v.deactivate n).active = clearBit v.active n := rfl
@[simp] theorem Nvic.deactivate_enable (v : Nvic) (n : Nat) : (v.deactivate n).enable = v.enable := rfl
@[simp] theorem Nvic.deactivate_irqPrio (v : Nvic) (n : Nat) : (v.deactivate n).irqPrio = v.irqPrio := rfl
@[simp] theorem Nvic.deactivate_svcPrio (v : Nvic) (n : Nat) : (v.deactivate n).svcPrio = v.svcPrio := rfl
@[simp] theorem Nvic.deactivate_pendSvPrio (v : Nvic) (n : Nat) : (v.deactivate n).pendSvPrio = v.pendSvPrio := rfl
@[simp] theorem Nvic.deactivate_sysTickPrio (v : Nvic) (n : Nat) : (v.deactivate n).sysTickPrio = v.sysTickPrio := rfl
@[simp] theorem Nvic.deactivate_linePrev (v : Nvic) (n : Nat) : (v.deactivate n).linePrev = v.linePrev := rfl

@[simp] theorem Nvic.derivedHardFault_pending (v : Nvic) (n : Nat) : (v.derivedHardFault n).pending = setBit v.pending n := rfl
@[simp] theorem Nvic.derivedHardFault_active (v : Nvic) (n : Nat) : (v.derivedHardFault n).active = setBit (clearBit v.active n) excHardFault := rfl
@[simp] theorem Nvic.derivedHardFault_enable (v : Nvic) (n : Nat) : (v.derivedHardFault n).enable = v.enable := rfl
@[simp] theorem Nvic.derivedHardFault_irqPrio (v : Nvic) (n : Nat) : (v.derivedHardFault n).irqPrio = v.irqPrio := rfl
@[simp] theorem Nvic.derivedHardFault_svcPrio (v : Nvic) (n : Nat) : (v.derivedHardFault n).svcPrio = v.svcPrio := rfl
@[simp] theorem Nvic.derivedHardFault_pendSvPrio (v : Nvic) (n : Nat) : (v.derivedHardFault n).pendSvPrio = v.pendSvPrio := rfl
@[simp] theorem Nvic.derivedHardFault_sysTickPrio (v : Nvic) (n : Nat) : (v.derivedHardFault n).sysTickPrio = v.sysTickPrio := rfl
@[simp] theorem Nvic.derivedHardFault_linePrev (v : Nvic) (n : Nat) : (v.derivedHardFault n).linePrev = v.linePrev := rfl

end Sys2Proof.Machine
end

