-- ==== Sys2Proof/Laws/Bus.lean ====
section
/-! SUPPORT. Everything a memory access can do, said once: what a read and a write answer, what they leave alone, and
the same of runs of word accesses. -/

namespace Sys2Proof.Machine

/-- The two states agree on everything that no memory access changes: the core's registers and modes, the active
exceptions, the run state, the platform's parameters other than its memory map, and the environment's schedule. -/
structure SameCore (s t : State) : Prop where
  r : t.r = s.r
  msp : t.msp = s.msp
  psp : t.psp = s.psp
  lr : t.lr = s.lr
  pc : t.pc = s.pc
  flags : t.flags = s.flags
  thumb : t.thumb = s.thumb
  ipsr : t.ipsr = s.ipsr
  primask : t.primask = s.primask
  spsel : t.spsel = s.spsel
  run : t.run = s.run
  active : t.nvic.active = s.nvic.active
  platform : t.platform = { s.platform with memMap := t.platform.memMap }
  env : t.env = s.env
  future : t.future = s.future

theorem SameCore.refl (s : State) : SameCore s s :=
  ⟨rfl, rfl, rfl, rfl, rfl, rfl, rfl, rfl, rfl, rfl, rfl, rfl, rfl, rfl, rfl⟩

theorem SameCore.trans {s t u : State} (h : SameCore s t) (h' : SameCore t u) : SameCore s u :=
  ⟨h'.r.trans h.r, h'.msp.trans h.msp, h'.psp.trans h.psp, h'.lr.trans h.lr, h'.pc.trans h.pc,
    h'.flags.trans h.flags, h'.thumb.trans h.thumb, h'.ipsr.trans h.ipsr, h'.primask.trans h.primask,
    h'.spsel.trans h.spsel, h'.run.trans h.run, h'.active.trans h.active,
    by rw [h'.platform, h.platform], h'.env.trans h.env, h'.future.trans h.future⟩

/-- The two states agree on what memory holds and on what answers at each address. -/
structure SameStore (s t : State) : Prop where
  mem : t.mem = s.mem
  platform : t.platform = s.platform

theorem SameStore.refl (s : State) : SameStore s s := ⟨rfl, rfl⟩

theorem SameStore.trans {s t u : State} (h : SameStore s t) (h' : SameStore t u) : SameStore s u :=
  ⟨h'.mem.trans h.mem, h'.platform.trans h.platform⟩

/-- Where memory and the platform are the same, so is what answers at an address. -/
theorem SameStore.kindAt {s t : State} (h : SameStore s t) (a : Word) : t.kindAt a = s.kindAt a := by
  simp [State.kindAt, h.platform]

/-- A register read of the private peripheral bus leaves the core, memory and the platform alone. -/
theorem ppbRead_sameCore (s : State) (reg : PpbReg) :
    SameCore s (s.ppbRead reg).2 ∧ SameStore s (s.ppbRead reg).2 := by
  cases reg <;> exact ⟨by constructor <;> simp [State.ppbRead], by constructor <;> simp [State.ppbRead]⟩

/-- A register write of the private peripheral bus that is carried out leaves the core, memory and the platform
alone. -/
theorem ppbWrite_sameCore {s t : State} {v : Word} {reg : PpbReg} (h : s.ppbWrite v reg = .ok () t) :
    SameCore s t ∧ SameStore s t := by
  cases reg <;> simp only [State.ppbWrite] at h <;> (try split at h) <;> (try split at h) <;> cases h <;>
    exact ⟨by constructor <;> simp, by constructor <;> simp⟩

/-- A register write of the private peripheral bus never faults. -/
theorem ppbWrite_ne_abort {s t : State} {v : Word} {reg : PpbReg} {c : FaultCause} :
    s.ppbWrite v reg ≠ .abort c t := by
  cases reg <;> simp only [State.ppbWrite] <;> (try split) <;> (try split) <;> simp

/-- Everything a successful read can be: a register of the private peripheral bus, stored bytes, or a device. -/
theorem memRead_ok {n : Nat} {addr v : Word} {s t : State} (h : memRead n addr s = .ok v t) :
    addr.toNat % n = 0 ∧
    ((inPpb addr = true ∧ n = 4 ∧ ∃ reg, ppbRegAt addr = some reg ∧ v = (s.ppbRead reg).1 ∧ t = (s.ppbRead reg).2) ∨
     (inPpb addr = false ∧ (s.kindAt addr = .ram ∨ s.kindAt addr = .romIgnore ∨ s.kindAt addr = .romBusError) ∧
        v = s.stored n addr ∧ t = s) ∨
     (inPpb addr = false ∧ s.kindAt addr = .device ∧ v = lowBytes n s.deviceValue ∧ t = s.deviceRead)) := by
  unfold memRead at h
  split at h
  · cases h
  · rename_i hal
    refine ⟨by simpa using hal, ?_⟩
    split at h
    · rename_i hp
      split at h
      · cases h
      · rename_i hn
        split at h
        · rename_i reg hreg
          cases h
          exact Or.inl ⟨hp, by simpa using hn, reg, hreg, rfl, rfl⟩
        · cases h
    · rename_i hp
      have hp' : inPpb addr = false := by simpa using hp
      split at h <;> cases h <;> simp_all

/-- A read that faults leaves the state as it was: it was unaligned or found nothing. -/
theorem memRead_abort {n : Nat} {addr : Word} {s t : State} {c : FaultCause} (h : memRead n addr s = .abort c t) :
    t = s ∧ ((addr.toNat % n ≠ 0 ∧ c = .unaligned) ∨
      (addr.toNat % n = 0 ∧ inPpb addr = false ∧ s.kindAt addr = .absent ∧ c = .busError)) := by
  unfold memRead at h
  split at h
  · cases h; simp_all
  · split at h
    · split at h
      · cases h
      · split at h <;> cases h
    · split at h <;> cases h <;> simp_all

/-- Everything a successful write can be: a register of the private peripheral bus, RAM, a ROM that ignores it, or a
device. -/
theorem memWrite_ok {n : Nat} {addr v : Word} {s t : State} (h : memWrite n addr v s = .ok () t) :
    addr.toNat % n = 0 ∧
    ((inPpb addr = true ∧ n = 4 ∧ ∃ reg, ppbRegAt addr = some reg ∧ s.ppbWrite v reg = .ok () t) ∨
     (inPpb addr = false ∧ s.kindAt addr = .ram ∧ t = s.store n addr v) ∨
     (inPpb addr = false ∧ s.kindAt addr = .romIgnore ∧ t = s) ∨
     (inPpb addr = false ∧ s.kindAt addr = .device ∧ t = s.deviceWritten)) := by
  unfold memWrite at h
  split at h
  · cases h
  · rename_i hal
    refine ⟨by simpa using hal, ?_⟩
    split at h
    · rename_i hp
      split at h
      · cases h
      · rename_i hn
        split at h
        · rename_i reg hreg
          exact Or.inl ⟨hp, by simpa using hn, reg, hreg, h⟩
        · cases h
    · rename_i hp
      have hp' : inPpb addr = false := by simpa using hp
      split at h <;> cases h <;> simp_all

/-- A write that faults leaves the state as it was: it was unaligned, found nothing, or met a ROM that answers a bus
error. -/
theorem memWrite_abort {n : Nat} {addr v : Word} {s t : State} {c : FaultCause}
    (h : memWrite n addr v s = .abort c t) :
    t = s ∧ ((addr.toNat % n ≠ 0 ∧ c = .unaligned) ∨
      (addr.toNat % n = 0 ∧ inPpb addr = false ∧ (s.kindAt addr = .absent ∨ s.kindAt addr = .romBusError) ∧
        c = .busError)) := by
  unfold memWrite at h
  split at h
  · cases h; simp_all
  · split at h
    · split at h
      · cases h
      · split at h
        · exact absurd h ppbWrite_ne_abort
        · cases h
    · split at h <;> cases h <;> simp_all

/-- An aligned read of RAM outside the private peripheral bus. -/
theorem memRead_ram {n : Nat} {addr : Word} {s : State} (hal : addr.toNat % n = 0) (hp : inPpb addr = false)
    (hk : s.kindAt addr = .ram) : memRead n addr s = .ok (s.stored n addr) s := by
  simp [memRead, hal, hp, hk]

/-- An aligned write of RAM outside the private peripheral bus. -/
theorem memWrite_ram {n : Nat} {addr v : Word} {s : State} (hal : addr.toNat % n = 0) (hp : inPpb addr = false)
    (hk : s.kindAt addr = .ram) : memWrite n addr v s = .ok () (s.store n addr v) := by
  simp [memWrite, hal, hp, hk]

/-- A read of a device leaves the core, memory and the platform alone. -/
theorem deviceRead_sameCore (s : State) : SameCore s s.deviceRead ∧ SameStore s s.deviceRead :=
  ⟨by constructor <;> simp, by constructor <;> simp⟩

/-- A store to a device leaves the core alone. -/
theorem deviceWritten_sameCore (s : State) : SameCore s s.deviceWritten := by
  constructor <;> try simp
  unfold State.deviceWritten
  split <;> rfl

/-- A successful read leaves the core, memory and the platform alone. -/
theorem memRead_sameCore {n : Nat} {addr v : Word} {s t : State} (h : memRead n addr s = .ok v t) :
    SameCore s t ∧ SameStore s t := by
  rcases (memRead_ok h).2 with ⟨_, _, reg, _, _, rfl⟩ | ⟨_, _, _, rfl⟩ | ⟨_, _, _, rfl⟩
  · exact ppbRead_sameCore s reg
  · exact ⟨SameCore.refl _, SameStore.refl _⟩
  · exact deviceRead_sameCore s

/-- A successful write leaves the core alone. -/
theorem memWrite_sameCore {n : Nat} {addr v : Word} {s t : State} (h : memWrite n addr v s = .ok () t) :
    SameCore s t := by
  rcases (memWrite_ok h).2 with ⟨_, _, reg, _, hw⟩ | ⟨_, _, rfl⟩ | ⟨_, _, rfl⟩ | ⟨_, _, rfl⟩
  · exact (ppbWrite_sameCore hw).1
  · exact ⟨rfl, rfl, rfl, rfl, rfl, rfl, rfl, rfl, rfl, rfl, rfl, rfl, rfl, rfl, rfl⟩
  · exact SameCore.refl _
  · exact deviceWritten_sameCore s

/-- A bind that succeeds succeeded in both parts. -/
theorem Access.bind_ok {α β : Type} {m : Access α} {k : α → State → Access β} {b : β} {t : State}
    (h : m.bind k = .ok b t) : ∃ a s, m = .ok a s ∧ k a s = .ok b t := by
  cases m with
  | ok a s => exact ⟨a, s, rfl, h⟩
  | abort c s => cases h
  | refused r => cases h

/-- A successful run of reads gives so many words and leaves the core, memory and the platform alone. -/
theorem loadWords_sameCore {n : Nat} {addr : Word} {ws : List Word} {s t : State}
    (h : loadWords n addr s = .ok ws t) : ws.length = n ∧ SameCore s t ∧ SameStore s t := by
  induction n generalizing addr ws s with
  | zero => cases h; exact ⟨rfl, SameCore.refl _, SameStore.refl _⟩
  | succ n ih =>
    obtain ⟨v, s1, h1, h⟩ := Access.bind_ok h
    obtain ⟨vs, s2, h2, h⟩ := Access.bind_ok h
    cases h
    obtain ⟨hl, hc, hm⟩ := ih h2
    have h1 := memRead_sameCore h1
    exact ⟨by simp [hl], h1.1.trans hc, h1.2.trans hm⟩

/-- A successful run of writes leaves the core alone. -/
theorem storeWords_sameCore {ws : List Word} {addr : Word} {s t : State} (h : storeWords ws addr s = .ok () t) :
    SameCore s t := by
  induction ws generalizing addr s with
  | nil => cases h; exact SameCore.refl _
  | cons v vs ih =>
    obtain ⟨_, s1, h1, h⟩ := Access.bind_ok h
    exact (memWrite_sameCore h1).trans (ih h)

end Sys2Proof.Machine
end

