-- ==== Sys2Proof/Laws/Agents.lean ====
section
/-! SUPPORT. What the agents other than the processor leave alone: the core and memory. -/

namespace Sys2Proof.Machine

variable (s : State)

/-- A counting step of the timer leaves the core, memory and the platform alone. -/
theorem count_sameCore : SameCore s s.count ∧ SameStore s s.count := by
  unfold State.count
  split
  · exact ⟨by constructor <;> rfl, by constructor <;> rfl⟩
  · split
    · dsimp only
      split <;> exact ⟨by constructor <;> simp, by constructor <;> simp⟩
    · exact ⟨by constructor <;> rfl, by constructor <;> rfl⟩

/-- A cycle of the timer's clock leaves the core, memory and the platform alone. -/
theorem tick_sameCore : SameCore s s.tick ∧ SameStore s s.tick := by
  unfold State.tick
  split
  · exact count_sameCore s
  · exact ⟨SameCore.refl s, SameStore.refl s⟩

/-- Several cycles of the timer's clock leave the core, memory and the platform alone. -/
theorem ticks_sameCore (n : Nat) : SameCore s (s.ticks n) ∧ SameStore s (s.ticks n) := by
  induction n generalizing s with
  | zero => exact ⟨SameCore.refl s, SameStore.refl s⟩
  | succ n ih =>
    have h := tick_sameCore s
    have h' := ih s.tick
    exact ⟨h.1.trans h'.1, h.2.trans h'.2⟩

/-- A sampling of the lines leaves the core, memory and the platform alone. -/
theorem sampleLines_sameCore (l : BitVec 32) : SameCore s (s.sampleLines l) ∧ SameStore s (s.sampleLines l) :=
  ⟨by constructor <;> simp [State.sampleLines], by constructor <;> simp [State.sampleLines]⟩

/-- A step of another agent leaves the core, memory and the platform alone. -/
theorem agentStep_sameCore (a : AgentStep) : SameCore s (s.agentStep a) ∧ SameStore s (s.agentStep a) := by
  cases a with
  | ticks n => exact ticks_sameCore s n
  | sampled l => exact sampleLines_sameCore s l
  | externalEvent => exact ⟨by constructor <;> rfl, by constructor <;> rfl⟩

/-- Steps of the other agents leave the core, memory and the platform alone. -/
theorem agentSteps_sameCore (as : List AgentStep) : SameCore s (s.agentSteps as) ∧ SameStore s (s.agentSteps as) := by
  induction as generalizing s with
  | nil => exact ⟨SameCore.refl s, SameStore.refl s⟩
  | cons a as ih =>
    have h := agentStep_sameCore s a
    have h' := ih (s.agentStep a)
    exact ⟨h.1.trans h'.1, h.2.trans h'.2⟩

/-- What happens outside between two processor steps leaves the core, memory and the platform alone. -/
theorem takeSample_sameCore (sm : Sample) : SameCore s (s.takeSample sm) ∧ SameStore s (s.takeSample sm) := by
  have h := agentSteps_sameCore s sm.steps
  have h' := sampleLines_sameCore (s.agentSteps sm.steps) sm.lines
  exact ⟨h.1.trans h'.1, h.2.trans h'.2⟩

/-- The agents leave the core, memory and the platform alone. -/
theorem agents_sameCore : SameCore s s.agents ∧ SameStore s s.agents := takeSample_sameCore s _

/-- An interruption inside a multiple transfer leaves the core, memory and the platform alone. -/
theorem interrupted_sameCore : SameCore s s.interrupted ∧ SameStore s s.interrupted := by
  unfold State.interrupted
  split
  · exact takeSample_sameCore s _
  · exact ⟨SameCore.refl s, SameStore.refl s⟩

/-- Taking the environment's choices changes only them. -/
theorem nextEnv_fields : s.nextEnv.run = s.run ∧ s.nextEnv.pc = s.pc ∧ s.nextEnv.r = s.r ∧ s.nextEnv.mem = s.mem ∧
    s.nextEnv.nvic = s.nvic ∧ s.nextEnv.msp = s.msp ∧ s.nextEnv.psp = s.psp ∧ s.nextEnv.ipsr = s.ipsr ∧
    s.nextEnv.spsel = s.spsel := by
  unfold State.nextEnv
  split <;> exact ⟨rfl, rfl, rfl, rfl, rfl, rfl, rfl, rfl, rfl⟩

end Sys2Proof.Machine
end

