-- ==== Sys2Proof/Laws/Registers.lean ====
section
/-! SUPPORT. Reading a register after writing one, and where the registers of a state are the same. -/

namespace Sys2Proof.Machine

/-- One element of a register file after another is written. -/
theorem regs_getD_set {n : Nat} (r : Vector Word n) (i j : Nat) (v : Word) :
    (r.setIfInBounds i v).toList.getD j 0 = if j = i ∧ j < n then v else r.toList.getD j 0 := by
  simp only [List.getD_eq_getElem?_getD, Vector.toList_setIfInBounds, List.getElem?_set, Vector.length_toList]
  rcases eq_or_ne i j with rfl | h
  · by_cases h' : i < n <;> simp [h']
  · simp [h, h.symm]

variable (s : State)

/-- A low register after a low register is written. -/
@[simp] theorem State.lo_setLo (n m : LowReg) (v : Word) :
    (s.setLo n v).lo m = if m = n then v else s.lo m := by
  have h := regs_getD_set s.r n.toNat m.toNat v
  have hm : m.toNat < 13 := by have := m.isLt; omega
  simp only [State.lo, State.setLo_r, h, hm, and_true, BitVec.toNat_inj]

/-- A low register reads the same in two states with the same register file. -/
theorem State.lo_congr {s t : State} (h : s.r = t.r) (n : LowReg) : s.lo n = t.lo n := by
  simp [State.lo, h]

/-- Moving on leaves the registers. -/
@[simp] theorem State.lo_advance (k : Nat) (n : LowReg) : (s.advance k).lo n = s.lo n := rfl

/-- A low register after a result is written. -/
@[simp] theorem State.lo_putLo (n m : LowReg) (v : Word) :
    (s.putLo n v).lo m = if m = n then v else s.lo m := by
  simp [State.putLo]

/-- A register 0 to 12 as an operand is the register file's. -/
theorem State.x_of_lt (n : Reg) (h : n.toNat < 13) : s.x n = s.r.toList.getD n.toNat 0 := by
  have h13 : n ≠ 13 := by rintro rfl; simp at h
  have h14 : n ≠ 14 := by rintro rfl; simp at h
  have h15 : n ≠ 15 := by rintro rfl; simp at h
  rw [State.x, if_neg h13, if_neg h14, if_neg h15]

/-- Which stack pointer is current depends on the mode and the selection only. -/
theorem State.usesPsp_congr {s t : State} (h : s.ipsr = t.ipsr) (h' : s.spsel = t.spsel) : s.usesPsp = t.usesPsp := by
  simp [State.usesPsp, State.threadMode, h, h']

/-- Writing a register leaves which stack pointer is current. -/
@[simp] theorem State.usesPsp_setX (n : Reg) (v : Word) : (s.setX n v).usesPsp = s.usesPsp := rfl

/-- Writing the stack pointer leaves which one is current. -/
@[simp] theorem State.usesPsp_setSp (v : Word) : (s.setSp v).usesPsp = s.usesPsp := rfl

/-- The current stack pointer after it is written: word-aligned (10_state.md R23). -/
@[simp] theorem State.sp_setSp (v : Word) : (s.setSp v).sp = wordAligned v := by
  by_cases h : s.usesPsp <;> simp [State.sp, State.usesPsp_setSp, h]

/-- A word-aligned value is a multiple of 4. -/
theorem wordAligned_mod (v : Word) : (wordAligned v).toNat % 4 = 0 := by
  have h : wordAligned v = (v >>> 2) <<< 2 := by
    unfold wordAligned
    ext i hi
    simp only [BitVec.getElem_and, BitVec.getElem_shiftLeft]
    interval_cases i <;> simp
  rw [h, BitVec.toNat_shiftLeft, Nat.shiftLeft_eq]
  omega

/-- A halfword-aligned value is even. -/
theorem halfAligned_mod (v : Word) : (halfAligned v).toNat % 2 = 0 := by
  have h : halfAligned v = (v >>> 1) <<< 1 := by
    unfold halfAligned
    ext i hi
    simp only [BitVec.getElem_and, BitVec.getElem_shiftLeft]
    interval_cases i <;> simp
  rw [h, BitVec.toNat_shiftLeft, Nat.shiftLeft_eq]
  omega

end Sys2Proof.Machine
end

