-- ==== Sys2Proof/Laws/Exception.lean ====
section
/-! SUPPORT. Everything taking an exception and returning from one can answer, said once for each shared
operation. -/

namespace Sys2Proof.Machine

variable {n : Nat} {ra link addr v : Word} {s t : State}

/-- HardFault in place of an exception: its vector is fetched, or the processor locks up. -/
theorem startDerived_next (h : startDerived n s = .next t) :
    (∃ w s1, memRead 4 (vectorAddress excHardFault) (s.enterDerived n) = .ok w s1 ∧ t = (s1.toVector w).clobber) ∨
    (∃ c s1, memRead 4 (vectorAddress excHardFault) (s.enterDerived n) = .abort c s1 ∧ t = s1.lockUp) := by
  unfold startDerived at h
  split at h
  · rename_i w s1 hm; cases h; exact Or.inl ⟨w, s1, hm, rfl⟩
  · rename_i c s1 hm; cases h; exact Or.inr ⟨c, s1, hm, rfl⟩
  · cases h

/-- Starting a handler: its vector is fetched, or the processor locks up, or HardFault is entered in its place. -/
theorem startHandler_next (h : startHandler n link s = .next t) :
    (∃ w s1, memRead 4 (vectorAddress n) (s.enterMode n link) = .ok w s1 ∧ t = (s1.toVector w).clobber) ∨
    (∃ c s1, memRead 4 (vectorAddress n) (s.enterMode n link) = .abort c s1 ∧
      ((n = excHardFault ∨ n = excNmi) ∧ t = s1.lockUp ∨
       ¬(n = excHardFault ∨ n = excNmi) ∧ startDerived n s1 = .next t)) := by
  unfold startHandler at h
  split at h
  · rename_i w s1 hm; cases h; exact Or.inl ⟨w, s1, hm, rfl⟩
  · rename_i c s1 hm
    split at h
    · rename_i hn; cases h; exact Or.inr ⟨c, s1, hm, Or.inl ⟨hn, rfl⟩⟩
    · rename_i hn; exact Or.inr ⟨c, s1, hm, Or.inr ⟨hn, h⟩⟩
  · cases h

/-- Exception entry that answers a next state stacked its eight words and started a handler. -/
theorem enterException_next (h : enterException n ra s = .next t) :
    ∃ s1, storeWords (s.frameWords ra) s.framePointer s = .ok () s1 ∧
      startHandler n s.excReturn (s1.setSp s.framePointer) = .next t := by
  unfold enterException at h
  split at h
  · rename_i s1 hm; exact ⟨s1, hm, h⟩
  · cases h
  · cases h

/-- Exception entry cut short by reset stored a prefix of the frame and stopped. -/
theorem cutEntry_next {k : Nat} (h : cutEntry k ra s = .next t) :
    ∃ s1, storeWords ((s.frameWords ra).take k) s.framePointer s = .ok () s1 ∧ t = s1.holdReset := by
  unfold cutEntry at h
  split at h
  · rename_i s1 hm; cases h; exact ⟨s1, hm, rfl⟩
  · cases h
  · cases h

/-- Taking an exception is the whole entry, or a prefix of its stores that reset cuts short. -/
theorem takeException_next (h : takeException n ra s = .next t) :
    enterException n ra s = .next t ∨ ∃ k, k < 8 ∧ cutEntry k ra s = .next t := by
  unfold takeException at h
  split at h
  · rename_i k _
    split at h
    · rename_i hk; exact Or.inr ⟨k, hk, h⟩
    · exact Or.inl h
  · exact Or.inl h

/-- With no reset inside the step, taking an exception is the whole entry. -/
theorem takeException_undisturbed (h : s.env.resetInEntry = none) :
    takeException n ra s = enterException n ra s := by
  simp [takeException, h]

/-- A fault locks the processor up or takes HardFault. -/
theorem raiseHardFault_next {c : FaultCause} (h : raiseHardFault c s = .next t) :
    (s.execPriority ≤ -1 ∧ t = s.lockUp) ∨
    (¬ s.execPriority ≤ -1 ∧ takeException excHardFault s.pc (s.pend excHardFault) = .next t) := by
  unfold raiseHardFault at h
  split at h
  · rename_i hp; cases h; exact Or.inl ⟨hp, rfl⟩
  · rename_i hp; exact Or.inr ⟨hp, h⟩

/-- An instruction that goes on from an access goes on with its value or takes its fault. -/
theorem finish_next {α : Type} {m : Access α} {k : α → State → Result} (h : m.finish k = .next t) :
    (∃ a s1, m = .ok a s1 ∧ k a s1 = .next t) ∨ (∃ c s1, m = .abort c s1 ∧ raiseHardFault c s1 = .next t) := by
  cases m with
  | ok a s1 => exact Or.inl ⟨a, s1, rfl, h⟩
  | abort c s1 => exact Or.inr ⟨c, s1, rfl, h⟩
  | refused r => cases h

/-- A frame that is accepted has an even return address and a stacked exception number that agrees with the mode
returned to, and is then restored. -/
theorem unstackFrame_next {th ps : Bool} {ws : List Word} {psr : Word} (h : unstackFrame th ps ws psr s = .next t) :
    (ws.getD 6 0).getLsbD 0 = false ∧ th = (psr.setWidth 6 == 0#6) ∧
    (th = false → s.nvic.isActive (psr.setWidth 6).toNat = true) ∧ t = s.restore th ps ws psr := by
  unfold unstackFrame at h
  split at h
  · cases h
  · split at h
    · cases h
    · split at h
      · cases h
      · rename_i h1 h2 h3
        simp only [Host.Outcome.next.injEq] at h
        refine ⟨by simpa using h1, by simpa using h2, ?_, h.symm⟩
        intro hth
        subst hth
        simpa using h3

/-- Unstacking restores a frame it read whole, or locks up on the PSR word through MSP. -/
theorem unstack_next (h : unstack addr s = .next t) :
    ∃ ws s1, loadWords 7 (if addr.getLsbD 2 then s.psp else s.msp) s = .ok ws s1 ∧
      ((∃ psr s2, memRead 4 ((if addr.getLsbD 2 then s.psp else s.msp) + 28) s1 = .ok psr s2 ∧
          unstackFrame (addr.getLsbD 3) (addr.getLsbD 2) ws psr s2 = .next t) ∨
       (∃ c s2, memRead 4 ((if addr.getLsbD 2 then s.psp else s.msp) + 28) s1 = .abort c s2 ∧
          addr.getLsbD 2 = false ∧ t = s2.lockUp)) := by
  unfold unstack at h
  simp only at h
  split at h
  · rename_i ws s1 hl
    refine ⟨ws, s1, hl, ?_⟩
    split at h
    · rename_i psr s2 hr; exact Or.inl ⟨psr, s2, hr, h⟩
    · rename_i c s2 hr
      split at h
      · cases h
      · rename_i hp; cases h; exact Or.inr ⟨c, s2, hr, by simpa using hp, rfl⟩
    · cases h
  · cases h
  · cases h

/-- The return sequence tail-chains or unstacks, with the returning exception no longer active. -/
theorem returnSequence_next (h : returnSequence addr s = .next t) :
    (∃ m, s.deactivateCurrent.preempting = some m ∧ startHandler m addr s.deactivateCurrent = .next t) ∨
    (s.deactivateCurrent.preempting = none ∧ unstack addr s.deactivateCurrent = .next t) := by
  unfold returnSequence at h
  split at h
  · rename_i m hm; exact Or.inl ⟨m, hm, h⟩
  · rename_i hm; exact Or.inr ⟨hm, h⟩

/-- An exception return that answers a next state had one of the three EXC_RETURN values, in agreement with the
other active exceptions. -/
theorem exceptionReturn_next (h : exceptionReturn addr s = .next t) :
    ((addr = 0xFFFFFFF1#32 ∧ s.othersActive = true) ∨
     ((addr = 0xFFFFFFF9#32 ∨ addr = 0xFFFFFFFD#32) ∧ s.othersActive = false)) ∧
    returnSequence addr s = .next t := by
  unfold exceptionReturn at h
  split at h
  · rename_i ha
    split at h
    · rename_i ho; exact ⟨Or.inl ⟨ha, ho⟩, h⟩
    · cases h
  · split at h
    · rename_i ha
      split at h
      · cases h
      · rename_i ho; exact ⟨Or.inr ⟨ha, by simpa using ho⟩, h⟩
    · cases h

/-- A BX or POP to the PC branches, or in Handler mode returns from an exception. -/
theorem bxWritePc_next (h : bxWritePc addr s = .next t) :
    (s.threadMode = false ∧ excReturnLike addr = true ∧ exceptionReturn addr s = .next t) ∨
    (¬(s.threadMode = false ∧ excReturnLike addr = true) ∧ t = s.interwork addr) := by
  unfold bxWritePc at h
  split at h
  · rename_i hc
    simp only [Bool.and_eq_true, Bool.not_eq_true'] at hc
    exact Or.inl ⟨hc.1, hc.2, h⟩
  · rename_i hc
    simp only [Bool.and_eq_true, Bool.not_eq_true'] at hc
    cases h
    exact Or.inr ⟨hc, rfl⟩

/-- A multiple transfer runs whole, or only some of its accesses, for an exception or for reset. -/
theorem transfer_next {α : Type} {accesses : Nat → State → Access α} {done : α → State → Result}
    (h : transfer n accesses done s = .next t) :
    (s.cut n = .whole ∧ (accesses n s.interrupted).finish done = .next t) ∨
    (∃ k, s.cut n = .abandoned k ∧ (accesses k s.interrupted).finish (fun _ s1 => .next s1) = .next t) ∨
    (∃ k, s.cut n = .reset k ∧ (accesses k s).finish (fun _ s1 => .next s1.holdReset) = .next t) := by
  unfold transfer at h
  split at h
  · rename_i hc; exact Or.inl ⟨hc, h⟩
  · rename_i k hc; exact Or.inr (Or.inl ⟨k, hc, h⟩)
  · rename_i k hc; exact Or.inr (Or.inr ⟨k, hc, h⟩)

/-- Undisturbed, a multiple transfer runs whole. -/
theorem transfer_undisturbed {α : Type} {accesses : Nat → State → Access α} {done : α → State → Result}
    (h : s.undisturbed) : transfer n accesses done s = (accesses n s).finish done := by
  simp [transfer, State.cut, State.interrupted, h.1, h.2]

end Sys2Proof.Machine
end

