-- ==== Sys2Proof/Laws/Flags.lean ====
section
/-! SUPPORT. The values of the additive operations as plain word arithmetic. -/

namespace Sys2Proof.Machine

/-- The result of an addition with carry is the sum of the words. -/
theorem addWithCarry_value (x y : Word) (cin : Bool) :
    (addWithCarry x y cin).value = x + y + BitVec.ofNat 32 cin.toNat := by
  simp [addWithCarry, BitVec.ofNat_add]

/-- The result of a subtraction is the difference of the words. -/
theorem subtract_value (x y : Word) : (subtract x y).value = x - y := by
  rw [subtract, addWithCarry_value, BitVec.sub_eq_add_neg, BitVec.neg_eq_not_add, ← BitVec.add_assoc]
  rfl

/-- Flags written as N and Z only keep C and V. -/
@[simp] theorem Flags.setNZ_c (f : Flags) (v : Word) : (f.setNZ v).c = f.c := rfl
@[simp] theorem Flags.setNZ_v (f : Flags) (v : Word) : (f.setNZ v).v = f.v := rfl
@[simp] theorem Flags.setNZ_n (f : Flags) (v : Word) : (f.setNZ v).n = v.getLsbD 31 := rfl
@[simp] theorem Flags.setNZ_z (f : Flags) (v : Word) : (f.setNZ v).z = (v == 0) := rfl

/-- Flags written by a shift keep V. -/
@[simp] theorem Flags.setNZC_v (f : Flags) (r : Shifted) : (f.setNZC r).v = f.v := rfl
@[simp] theorem Flags.setNZC_c (f : Flags) (r : Shifted) : (f.setNZC r).c = r.carry := rfl
@[simp] theorem Flags.setNZC_n (f : Flags) (r : Shifted) : (f.setNZC r).n = r.value.getLsbD 31 := rfl
@[simp] theorem Flags.setNZC_z (f : Flags) (r : Shifted) : (f.setNZC r).z = (r.value == 0) := rfl

end Sys2Proof.Machine
end

