-- ==== Sys2Proof/Laws/PerInstr.lean ====
section
/-! SUPPORT. A statement about every instruction as syntax, proved constructor by constructor: its encoding is one
halfword or two, every halfword is below 2^16, and there are two exactly when the first halfword says so
(30_encoding.md R140). -/

namespace Sys2Proof.Laws.Encoding

/-- The instruction's halfwords fit their width, and their number is what the first of them says
(30_encoding.md R140). -/
def Statement (i : Instr) : Prop :=
  (∃ h1, encodeNat i = [h1] ∧ h1 < 65536 ∧ isWide h1 = false) ∨
  (∃ h1 h2, encodeNat i = [h1, h2] ∧ h1 < 65536 ∧ h2 < 65536 ∧ isWide h1 = true)

/-- A halfword below 0xE800 is a 16-bit instruction. -/
theorem narrow {i : Instr} {h1 : Nat} (he : encodeNat i = [h1]) (hb : h1 < 0xE800) : Statement i := by
  refine Or.inl ⟨h1, he, by omega, ?_⟩
  exact decide_eq_false (by simp only [bitsAt]; omega)

/-- A first halfword from 0xF000 on starts a 32-bit instruction. -/
theorem wide {i : Instr} {h1 h2 : Nat} (he : encodeNat i = [h1, h2]) (hb : 0xF000 ≤ h1) (hb' : h1 < 65536)
    (hc : h2 < 65536) : Statement i := by
  refine Or.inr ⟨h1, h2, he, hb', hc, ?_⟩
  exact decide_eq_true (by simp only [bitsAt]; omega)

theorem lslsImm (rd rm : LowReg) (imm5 : BitVec 5) : Statement (.lslsImm rd rm imm5) := by
  exact narrow rfl (by simp only [encodeImm5]; omega)

theorem lsrsImm (rd rm : LowReg) (imm5 : BitVec 5) : Statement (.lsrsImm rd rm imm5) := by
  exact narrow rfl (by simp only [encodeImm5]; omega)

theorem asrsImm (rd rm : LowReg) (imm5 : BitVec 5) : Statement (.asrsImm rd rm imm5) := by
  exact narrow rfl (by simp only [encodeImm5]; omega)

theorem addsReg (rd rn rm : LowReg) : Statement (.addsReg rd rn rm) := by
  exact narrow rfl (by simp only [encodeThree]; omega)

theorem subsReg (rd rn rm : LowReg) : Statement (.subsReg rd rn rm) := by
  exact narrow rfl (by simp only [encodeThree]; omega)

theorem addsImm3 (rd rn : LowReg) (imm3 : BitVec 3) : Statement (.addsImm3 rd rn imm3) := by
  exact narrow rfl (by simp only [encodeThree]; omega)

theorem subsImm3 (rd rn : LowReg) (imm3 : BitVec 3) : Statement (.subsImm3 rd rn imm3) := by
  exact narrow rfl (by simp only [encodeThree]; omega)

theorem movsImm (rd : LowReg) (imm8 : BitVec 8) : Statement (.movsImm rd imm8) := by
  exact narrow rfl (by simp only [encodeImm8]; omega)

theorem cmpImm (rn : LowReg) (imm8 : BitVec 8) : Statement (.cmpImm rn imm8) := by
  exact narrow rfl (by simp only [encodeImm8]; omega)

theorem addsImm8 (rdn : LowReg) (imm8 : BitVec 8) : Statement (.addsImm8 rdn imm8) := by
  exact narrow rfl (by simp only [encodeImm8]; omega)

theorem subsImm8 (rdn : LowReg) (imm8 : BitVec 8) : Statement (.subsImm8 rdn imm8) := by
  exact narrow rfl (by simp only [encodeImm8]; omega)

theorem ands (rdn rm : LowReg) : Statement (.ands rdn rm) := by
  exact narrow rfl (by simp only [encodeDp]; omega)

theorem eors (rdn rm : LowReg) : Statement (.eors rdn rm) := by
  exact narrow rfl (by simp only [encodeDp]; omega)

theorem lslsReg (rdn rs : LowReg) : Statement (.lslsReg rdn rs) := by
  exact narrow rfl (by simp only [encodeDp]; omega)

theorem lsrsReg (rdn rs : LowReg) : Statement (.lsrsReg rdn rs) := by
  exact narrow rfl (by simp only [encodeDp]; omega)

theorem asrsReg (rdn rs : LowReg) : Statement (.asrsReg rdn rs) := by
  exact narrow rfl (by simp only [encodeDp]; omega)

theorem adcs (rdn rm : LowReg) : Statement (.adcs rdn rm) := by
  exact narrow rfl (by simp only [encodeDp]; omega)

theorem sbcs (rdn rm : LowReg) : Statement (.sbcs rdn rm) := by
  exact narrow rfl (by simp only [encodeDp]; omega)

theorem rorsReg (rdn rs : LowReg) : Statement (.rorsReg rdn rs) := by
  exact narrow rfl (by simp only [encodeDp]; omega)

theorem tst (rn rm : LowReg) : Statement (.tst rn rm) := by
  exact narrow rfl (by simp only [encodeDp]; omega)

theorem rsbs (rd rn : LowReg) : Statement (.rsbs rd rn) := by
  exact narrow rfl (by simp only [encodeDp]; omega)

theorem cmpReg (rn rm : LowReg) : Statement (.cmpReg rn rm) := by
  exact narrow rfl (by simp only [encodeDp]; omega)

theorem cmn (rn rm : LowReg) : Statement (.cmn rn rm) := by
  exact narrow rfl (by simp only [encodeDp]; omega)

theorem orrs (rdn rm : LowReg) : Statement (.orrs rdn rm) := by
  exact narrow rfl (by simp only [encodeDp]; omega)

theorem muls (rdm rn : LowReg) : Statement (.muls rdm rn) := by
  exact narrow rfl (by simp only [encodeDp]; omega)

theorem bics (rdn rm : LowReg) : Statement (.bics rdn rm) := by
  exact narrow rfl (by simp only [encodeDp]; omega)

theorem mvns (rd rm : LowReg) : Statement (.mvns rd rm) := by
  exact narrow rfl (by simp only [encodeDp]; omega)

theorem addHigh (rdn rm : Reg) : Statement (.addHigh rdn rm) := by
  exact narrow rfl (by simp only [encodeHigh]; omega)

theorem cmpHigh (rn rm : Reg) : Statement (.cmpHigh rn rm) := by
  exact narrow rfl (by simp only [encodeHigh]; omega)

theorem movHigh (rd rm : Reg) : Statement (.movHigh rd rm) := by
  exact narrow rfl (by simp only [encodeHigh]; omega)

theorem bx (rm : Reg) (sb : BitVec 3) : Statement (.bx rm sb) := by
  exact narrow rfl (by omega)

theorem blx (rm : Reg) (sb : BitVec 3) : Statement (.blx rm sb) := by
  exact narrow rfl (by omega)

theorem ldrLit (rt : LowReg) (imm8 : BitVec 8) : Statement (.ldrLit rt imm8) := by
  exact narrow rfl (by simp only [encodeImm8]; omega)

theorem strReg (rt rn rm : LowReg) : Statement (.strReg rt rn rm) := by
  exact narrow rfl (by simp only [encodeThree]; omega)

theorem strhReg (rt rn rm : LowReg) : Statement (.strhReg rt rn rm) := by
  exact narrow rfl (by simp only [encodeThree]; omega)

theorem strbReg (rt rn rm : LowReg) : Statement (.strbReg rt rn rm) := by
  exact narrow rfl (by simp only [encodeThree]; omega)

theorem ldrsbReg (rt rn rm : LowReg) : Statement (.ldrsbReg rt rn rm) := by
  exact narrow rfl (by simp only [encodeThree]; omega)

theorem ldrReg (rt rn rm : LowReg) : Statement (.ldrReg rt rn rm) := by
  exact narrow rfl (by simp only [encodeThree]; omega)

theorem ldrhReg (rt rn rm : LowReg) : Statement (.ldrhReg rt rn rm) := by
  exact narrow rfl (by simp only [encodeThree]; omega)

theorem ldrbReg (rt rn rm : LowReg) : Statement (.ldrbReg rt rn rm) := by
  exact narrow rfl (by simp only [encodeThree]; omega)

theorem ldrshReg (rt rn rm : LowReg) : Statement (.ldrshReg rt rn rm) := by
  exact narrow rfl (by simp only [encodeThree]; omega)

theorem strImm (rt rn : LowReg) (imm5 : BitVec 5) : Statement (.strImm rt rn imm5) := by
  exact narrow rfl (by simp only [encodeImm5]; omega)

theorem ldrImm (rt rn : LowReg) (imm5 : BitVec 5) : Statement (.ldrImm rt rn imm5) := by
  exact narrow rfl (by simp only [encodeImm5]; omega)

theorem strbImm (rt rn : LowReg) (imm5 : BitVec 5) : Statement (.strbImm rt rn imm5) := by
  exact narrow rfl (by simp only [encodeImm5]; omega)

theorem ldrbImm (rt rn : LowReg) (imm5 : BitVec 5) : Statement (.ldrbImm rt rn imm5) := by
  exact narrow rfl (by simp only [encodeImm5]; omega)

theorem strhImm (rt rn : LowReg) (imm5 : BitVec 5) : Statement (.strhImm rt rn imm5) := by
  exact narrow rfl (by simp only [encodeImm5]; omega)

theorem ldrhImm (rt rn : LowReg) (imm5 : BitVec 5) : Statement (.ldrhImm rt rn imm5) := by
  exact narrow rfl (by simp only [encodeImm5]; omega)

theorem strSp (rt : LowReg) (imm8 : BitVec 8) : Statement (.strSp rt imm8) := by
  exact narrow rfl (by simp only [encodeImm8]; omega)

theorem ldrSp (rt : LowReg) (imm8 : BitVec 8) : Statement (.ldrSp rt imm8) := by
  exact narrow rfl (by simp only [encodeImm8]; omega)

theorem adr (rd : LowReg) (imm8 : BitVec 8) : Statement (.adr rd imm8) := by
  exact narrow rfl (by simp only [encodeImm8]; omega)

theorem addSpRd (rd : LowReg) (imm8 : BitVec 8) : Statement (.addSpRd rd imm8) := by
  exact narrow rfl (by simp only [encodeImm8]; omega)

theorem addSpImm (imm7 : BitVec 7) : Statement (.addSpImm imm7) := by
  exact narrow rfl (by omega)

theorem subSpImm (imm7 : BitVec 7) : Statement (.subSpImm imm7) := by
  exact narrow rfl (by omega)

theorem sxth (rd rm : LowReg) : Statement (.sxth rd rm) := by
  exact narrow rfl (by simp only [encodeTwo]; omega)

theorem sxtb (rd rm : LowReg) : Statement (.sxtb rd rm) := by
  exact narrow rfl (by simp only [encodeTwo]; omega)

theorem uxth (rd rm : LowReg) : Statement (.uxth rd rm) := by
  exact narrow rfl (by simp only [encodeTwo]; omega)

theorem uxtb (rd rm : LowReg) : Statement (.uxtb rd rm) := by
  exact narrow rfl (by simp only [encodeTwo]; omega)

theorem push (m : Bool) (list : RegList) : Statement (.push m list) := by
  refine narrow rfl ?_
  cases m <;> simp [bitVal] <;> omega

theorem cpsie (sb : BitVec 4) : Statement (.cpsie sb) := by
  exact narrow rfl (by omega)

theorem cpsid (sb : BitVec 4) : Statement (.cpsid sb) := by
  exact narrow rfl (by omega)

theorem rev (rd rm : LowReg) : Statement (.rev rd rm) := by
  exact narrow rfl (by simp only [encodeTwo]; omega)

theorem rev16 (rd rm : LowReg) : Statement (.rev16 rd rm) := by
  exact narrow rfl (by simp only [encodeTwo]; omega)

theorem revsh (rd rm : LowReg) : Statement (.revsh rd rm) := by
  exact narrow rfl (by simp only [encodeTwo]; omega)

theorem pop (p : Bool) (list : RegList) : Statement (.pop p list) := by
  refine narrow rfl ?_
  cases p <;> simp [bitVal] <;> omega

theorem bkpt (imm8 : BitVec 8) : Statement (.bkpt imm8) := by
  exact narrow rfl (by omega)

theorem nop : Statement (.nop) := by
  exact narrow rfl (by omega)

theorem yieldHint : Statement (.yieldHint) := by
  exact narrow rfl (by omega)

theorem wfe : Statement (.wfe) := by
  exact narrow rfl (by omega)

theorem wfi : Statement (.wfi) := by
  exact narrow rfl (by omega)

theorem sev : Statement (.sev) := by
  exact narrow rfl (by omega)

theorem reservedHint (opA : BitVec 4) : Statement (.reservedHint opA) := by
  exact narrow rfl (by omega)

theorem stm (rn : LowReg) (list : RegList) : Statement (.stm rn list) := by
  exact narrow rfl (by simp only [encodeImm8]; omega)

theorem ldm (rn : LowReg) (list : RegList) : Statement (.ldm rn list) := by
  exact narrow rfl (by simp only [encodeImm8]; omega)

theorem bCond (cond : Cond) (imm8 : BitVec 8) : Statement (.bCond cond imm8) := by
  refine narrow rfl ?_
  cases cond <;> simp only [condNum] <;> omega

theorem udf (imm8 : BitVec 8) : Statement (.udf imm8) := by
  exact narrow rfl (by omega)

theorem svc (imm8 : BitVec 8) : Statement (.svc imm8) := by
  exact narrow rfl (by omega)

theorem b (imm11 : BitVec 11) : Statement (.b imm11) := by
  exact narrow rfl (by omega)

theorem bl (off : BitVec 24) : Statement (.bl off) := by
  refine wide rfl ?_ ?_ ?_ <;> simp only [encodeBl, bitsAt, notXor] <;> omega

theorem msr (rn : Reg) (sysm : BitVec 8) (sb : BitVec 6) : Statement (.msr rn sysm sb) := by
  refine wide rfl ?_ ?_ ?_ <;> simp only [bitsAt] <;> omega

theorem mrs (rd : Reg) (sysm : BitVec 8) (sb : BitVec 6) : Statement (.mrs rd sysm sb) := by
  refine wide rfl ?_ ?_ ?_ <;> simp only [bitsAt] <;> omega

theorem dsb (option : BitVec 4) (sb : BitVec 9) : Statement (.dsb option sb) := by
  refine wide rfl ?_ ?_ ?_ <;> simp only [encodeBarrier, bitsAt] <;> omega

theorem dmb (option : BitVec 4) (sb : BitVec 9) : Statement (.dmb option sb) := by
  refine wide rfl ?_ ?_ ?_ <;> simp only [encodeBarrier, bitsAt] <;> omega

theorem isb (option : BitVec 4) (sb : BitVec 9) : Statement (.isb option sb) := by
  refine wide rfl ?_ ?_ ?_ <;> simp only [encodeBarrier, bitsAt] <;> omega

theorem udfW (imm16 : BitVec 16) : Statement (.udfW imm16) := by
  refine wide rfl ?_ ?_ ?_ <;> simp only [bitsAt] <;> omega

end Sys2Proof.Laws.Encoding
end

