-- ==== Sys2Proof/Tests/Slice0.lean ====
section
/-! SUPPORT. Tests. Words and results come from spec/95_test_vectors.md and from the examples of the instruction rules
(the row or rule stands in each docstring); then, for every obligation with hypotheses, a witness that meets them. -/

namespace Sys2Proof.Tests

open Sys2Proof.Machine Sys2Proof.Claims

/-! ### Well-formedness: an ill-formed term for each check -/

theorem test_wellFormed_operands :
    (Instr.addHigh 15 15).wellFormed = false ∧ (Instr.cmpHigh 0 1).wellFormed = false ∧
    (Instr.cmpHigh 15 8).wellFormed = false ∧ (Instr.cmpHigh 8 15).wellFormed = false ∧
    (Instr.bx 13 0).wellFormed = false ∧ (Instr.bx 15 0).wellFormed = false ∧
    (Instr.blx 13 0).wellFormed = false ∧ (Instr.blx 15 0).wellFormed = false := by decide

theorem test_wellFormed_shouldBeBits :
    (Instr.bx 14 1).wellFormed = false ∧ (Instr.blx 14 4).wellFormed = false ∧ (Instr.cpsie 0).wellFormed = false ∧
    (Instr.cpsid 3).wellFormed = false ∧ (Instr.msr 0 0 0).wellFormed = false ∧ (Instr.mrs 0 0 0).wellFormed = false ∧
    (Instr.dsb 15 0).wellFormed = false ∧ (Instr.dmb 15 0).wellFormed = false ∧
    (Instr.isb 15 0).wellFormed = false := by decide

theorem test_wellFormed_lists :
    (Instr.push false 0).wellFormed = false ∧ (Instr.pop false 0).wellFormed = false ∧
    (Instr.ldm 2 0).wellFormed = false ∧ (Instr.stm 2 0).wellFormed = false ∧
    (Instr.stm 5 0x70).wellFormed = false := by decide

theorem test_wellFormed_specialRegisters :
    (Instr.msr 13 0 sbMsr).wellFormed = false ∧ (Instr.msr 15 0 sbMsr).wellFormed = false ∧
    (Instr.msr 0 4 sbMsr).wellFormed = false ∧ (Instr.mrs 13 0 sbMrs).wellFormed = false ∧
    (Instr.mrs 15 0 sbMrs).wellFormed = false ∧ (Instr.mrs 0 21 sbMrs).wellFormed = false ∧
    (Instr.reservedHint 4).wellFormed = false := by decide

/-! ### Decoding: words written out from the formats of 30_encoding.md sections 1 and 2 -/

theorem test_decode_shift_immediate :
    decodeTableWord 16 0b00000_00011_010_001 = some (.lslsImm 1 2 3) ∧
    decodeTableWord 16 0b00001_00110_101_100 = some (.lsrsImm 4 5 6) ∧
    decodeTableWord 16 0b00010_01001_101_111 = some (.asrsImm 7 5 9) := by decide

theorem test_decode_add_subtract :
    decodeTableWord 16 0b0001100_010_001_001 = some (.addsReg 1 1 2) ∧
    decodeTableWord 16 0b0001101_001_100_100 = some (.subsReg 4 4 1) ∧
    decodeTableWord 16 0b0001110_111_010_001 = some (.addsImm3 1 2 7) ∧
    decodeTableWord 16 0b0001111_001_010_001 = some (.subsImm3 1 2 1) := by decide

theorem test_decode_immediate8 :
    decodeTableWord 16 0b00100_011_00010111 = some (.movsImm 3 23) ∧
    decodeTableWord 16 0b00101_000_00000101 = some (.cmpImm 0 5) ∧
    decodeTableWord 16 0b00110_011_11111111 = some (.addsImm8 3 255) ∧
    decodeTableWord 16 0b00111_011_00000001 = some (.subsImm8 3 1) := by decide

theorem test_decode_data_processing_a :
    decodeTableWord 16 0b0100000000_001_010 = some (.ands 2 1) ∧
    decodeTableWord 16 0b0100000001_110_111 = some (.eors 7 6) ∧
    decodeTableWord 16 0b0100000010_001_000 = some (.lslsReg 0 1) ∧
    decodeTableWord 16 0b0100000011_011_010 = some (.lsrsReg 2 3) ∧
    decodeTableWord 16 0b0100000100_001_000 = some (.asrsReg 0 1) ∧
    decodeTableWord 16 0b0100000101_011_001 = some (.adcs 1 3) ∧
    decodeTableWord 16 0b0100000110_010_101 = some (.sbcs 5 2) ∧
    decodeTableWord 16 0b0100000111_110_100 = some (.rorsReg 4 6) := by decide

theorem test_decode_data_processing_b :
    decodeTableWord 16 0b0100001000_001_000 = some (.tst 0 1) ∧
    decodeTableWord 16 0b0100001001_010_001 = some (.rsbs 1 2) ∧
    decodeTableWord 16 0b0100001010_010_001 = some (.cmpReg 1 2) ∧
    decodeTableWord 16 0b0100001011_010_000 = some (.cmn 0 2) ∧
    decodeTableWord 16 0b0100001100_101_010 = some (.orrs 2 5) ∧
    decodeTableWord 16 0b0100001101_010_000 = some (.muls 0 2) ∧
    decodeTableWord 16 0b0100001110_001_000 = some (.bics 0 1) ∧
    decodeTableWord 16 0b0100001111_000_010 = some (.mvns 2 0) := by decide

theorem test_decode_any_register :
    decodeTableWord 16 0b01000100_1_0001_000 = some (.addHigh 8 1) ∧
    decodeTableWord 16 0b01000101_0_1001_010 = some (.cmpHigh 2 9) ∧
    decodeTableWord 16 0b01000110_1_1100_010 = some (.movHigh 10 12) ∧
    decodeTableWord 16 0b010001110_1110_000 = some (.bx 14 0) ∧
    decodeTableWord 16 0b010001111_0000_000 = some (.blx 0 0) := by decide

theorem test_decode_load_store_register :
    decodeTableWord 16 0b0101000_001_101_000 = some (.strReg 0 5 1) ∧
    decodeTableWord 16 0b0101001_001_101_000 = some (.strhReg 0 5 1) ∧
    decodeTableWord 16 0b0101010_001_101_000 = some (.strbReg 0 5 1) ∧
    decodeTableWord 16 0b0101011_010_000_001 = some (.ldrsbReg 1 0 2) ∧
    decodeTableWord 16 0b0101100_001_101_000 = some (.ldrReg 0 5 1) ∧
    decodeTableWord 16 0b0101101_010_000_001 = some (.ldrhReg 1 0 2) ∧
    decodeTableWord 16 0b0101110_010_000_001 = some (.ldrbReg 1 0 2) ∧
    decodeTableWord 16 0b0101111_011_010_001 = some (.ldrshReg 1 2 3) := by decide

theorem test_decode_load_store_immediate :
    decodeTableWord 16 0b01001_011_00011001 = some (.ldrLit 3 25) ∧
    decodeTableWord 16 0b01100_00011_000_010 = some (.strImm 2 0 3) ∧
    decodeTableWord 16 0b01101_00001_000_001 = some (.ldrImm 1 0 1) ∧
    decodeTableWord 16 0b01110_00001_000_001 = some (.strbImm 1 0 1) ∧
    decodeTableWord 16 0b01111_00001_000_001 = some (.ldrbImm 1 0 1) ∧
    decodeTableWord 16 0b10000_00001_000_001 = some (.strhImm 1 0 1) ∧
    decodeTableWord 16 0b10001_00001_000_001 = some (.ldrhImm 1 0 1) ∧
    decodeTableWord 16 0b10010_001_00000011 = some (.strSp 1 3) ∧
    decodeTableWord 16 0b10011_001_11111111 = some (.ldrSp 1 255) := by decide

theorem test_decode_addresses :
    decodeTableWord 16 0b10100_011_11111001 = some (.adr 3 249) ∧
    decodeTableWord 16 0b10101_001_00000010 = some (.addSpRd 1 2) ∧
    decodeTableWord 16 0b101100000_0000010 = some (.addSpImm 2) ∧
    decodeTableWord 16 0b101100001_0000100 = some (.subSpImm 4) := by decide

theorem test_decode_extend_reverse :
    decodeTableWord 16 0b1011001000_110_100 = some (.sxth 4 6) ∧
    decodeTableWord 16 0b1011001001_001_000 = some (.sxtb 0 1) ∧
    decodeTableWord 16 0b1011001010_001_000 = some (.uxth 0 1) ∧
    decodeTableWord 16 0b1011001011_001_011 = some (.uxtb 3 1) ∧
    decodeTableWord 16 0b1011101000_111_011 = some (.rev 3 7) ∧
    decodeTableWord 16 0b1011101001_001_000 = some (.rev16 0 1) ∧
    decodeTableWord 16 0b1011101011_101_000 = some (.revsh 0 5) := by decide

theorem test_decode_stack_and_mask :
    decodeTableWord 16 0b1011010_1_00000100 = some (.push true 0x04) ∧
    decodeTableWord 16 0b1011110_1_01000001 = some (.pop true 0x41) ∧
    decodeTableWord 16 0b101101100110_0010 = some (.cpsie 2) ∧
    decodeTableWord 16 0b101101100111_0010 = some (.cpsid 2) ∧
    decodeTableWord 16 0b10111110_10101011 = some (.bkpt 0xAB) := by decide

theorem test_decode_hints :
    decodeTableWord 16 0b1011111100000000 = some .nop ∧
    decodeTableWord 16 0b1011111100010000 = some .yieldHint ∧
    decodeTableWord 16 0b1011111100100000 = some .wfe ∧
    decodeTableWord 16 0b1011111100110000 = some .wfi ∧
    decodeTableWord 16 0b1011111101000000 = some .sev ∧
    decodeTableWord 16 0b10111111_0101_0000 = some (.reservedHint 5) := by decide

theorem test_decode_multiple_and_branch :
    decodeTableWord 16 0b11000_001_01011100 = some (.stm 1 0x5C) ∧
    decodeTableWord 16 0b11001_001_00000101 = some (.ldm 1 0x05) ∧
    decodeTableWord 16 0b1101_1011_01111111 = some (.bCond .lt 0x7F) ∧
    decodeTableWord 16 0b11011110_00000000 = some (.udf 0) ∧
    decodeTableWord 16 0b11011111_00110010 = some (.svc 0x32) ∧
    decodeTableWord 16 0b11100_11111111110 = some (.b 0x7FE) := by decide

theorem test_decode_wide :
    decodeTableWord 32 0b11110_0_0000000000_11_1_1_1_00001111110 = some (.bl 0x00007E) ∧
    decodeTableWord 32 0b11110011100_00001_10_00_100000010100 = some (.msr 1 20 sbMsr) ∧
    decodeTableWord 32 0b11110011111_0111110_00_0010_00000101 = some (.mrs 2 5 sbMrs) ∧
    decodeTableWord 32 0b111100111011_111110_00_11110100_1111 = some (.dsb 15 sbBarrier) ∧
    decodeTableWord 32 0b111100111011_111110_00_11110101_1111 = some (.dmb 15 sbBarrier) ∧
    decodeTableWord 32 0b111100111011_111110_00_11110110_1111 = some (.isb 15 sbBarrier) ∧
    decodeTableWord 32 0b111101111111_0001_1010_001000110100 = some (.udfW 0x1234) := by decide

/-- The fourteen condition numbers (40_instruction_conventions.md R191). -/
theorem test_decode_conditions :
    (List.range 14).map (fun c => decodeTableWord 16 (0xD000 + c * 256)) =
      [Cond.eq, .ne, .cs, .cc, .mi, .pl, .vs, .vc, .hi, .ls, .ge, .lt, .gt, .le].map
        fun c => some (.bCond c 0) := by decide

/-- Patterns that are no row of the table (30_encoding.md R160; Y12). -/
theorem test_decode_undefined :
    decodeTableWord 16 0xB100 = none ∧ decodeTableWord 16 0xBA80 = none ∧ decodeTableWord 32 0xE8000000 = none := by
  decide

/-! ### Single steps -/

/-- Low registers, MSP 0x10000FF0, PC 0x100, T set, a RAM word at 0x10000000. -/
def start : State :=
  { State.reset with
    pc := 0x100, thumb := true, msp := 0x10000FF0
    mem := Memory.storeBytes [] 0x10000000 [0x78, 0x56, 0x34, 0x12, 0x80, 0xFF, 0x01, 0x80] }

/-- The state with R0, R1, … from a list. -/
def low (vs : List Word) : State := start.setListed [0, 1, 2, 3, 4, 5, 6, 7] vs

/-- The carry flag set before. -/
def State.carry (s : State) : State := { s with flags := { s.flags with c := true } }

/-- What the instruction of a 16-bit word leaves. -/
def after (w : Nat) (s : State) : Option State :=
  (decodeTableWord 16 w).bind fun i => match exec i s with | .next t => some t | _ => none

/-- What the instruction of a 32-bit word leaves. -/
def afterWide (w : Nat) (s : State) : Option State :=
  (decodeTableWord 32 w).bind fun i => match exec i s with | .next t => some t | _ => none

/-- The instruction of a 16-bit word is refused for this reason. -/
def refused (w : Nat) (s : State) (r : Refusal) : Bool :=
  match (decodeTableWord 16 w).map fun i => exec i s with
  | some (.refused q) => q == r
  | _ => false

/-- R0 and the flags as N Z C V. -/
def r0 (s : State) : Word × List Bool := (s.lo 0, [s.flags.n, s.flags.z, s.flags.c, s.flags.v])

/-- A1 and A3. -/
theorem test_adds_overflows :
    (after 0x1840 (low [0x7FFFFFFF, 1])).map r0 = some (0x80000000, [true, false, false, true]) ∧
    (after 0x1840 (low [0x80000000, 0x80000000])).map r0 = some (0, [false, true, true, true]) := by decide

/-- A13 and A15. -/
theorem test_adds_immediate :
    (after 0x1DD1 (low [0, 0, 0xFFFFFFF9])).map (fun t => (t.lo 1, t.flags)) =
      some (0, ⟨false, true, true, false⟩) ∧
    (after 0x33FF (low [0, 0, 0, 1])).map (fun t => (t.lo 3, t.flags)) =
      some (0x100, ⟨false, false, false, false⟩) := by decide

/-- A4 and A5. -/
theorem test_adcs_carries :
    (after 0x4148 (State.carry (low [0xFFFFFFFF, 0xFFFFFFFF]))).map r0 =
      some (0xFFFFFFFF, [true, false, true, false]) ∧
    (after 0x4148 (State.carry (low [0xFFFFFFFF, 0]))).map r0 = some (0, [false, true, true, false]) := by decide

/-- A7, A8 and A9. -/
theorem test_subs_borrows :
    (after 0x1A40 (low [0, 1])).map r0 = some (0xFFFFFFFF, [true, false, false, false]) ∧
    (after 0x1A40 (low [0x80000000, 1])).map r0 = some (0x7FFFFFFF, [false, false, true, true]) ∧
    (after 0x1A40 (low [0x7FFFFFFF, 0xFFFFFFFF])).map r0 = some (0x80000000, [true, false, false, true]) := by decide

/-- A14 and A16. -/
theorem test_subs_immediate :
    (after 0x1E51 (low [0, 0, 0])).map (fun t => (t.lo 1, t.flags)) =
      some (0xFFFFFFFF, ⟨true, false, false, false⟩) ∧
    (after 0x3BFF (low [0, 0, 0, 255])).map (fun t => (t.lo 3, t.flags)) =
      some (0, ⟨false, true, true, false⟩) := by decide

/-- A10, A11 and A12. -/
theorem test_sbcs_borrows :
    (after 0x4188 (low [5, 3])).map r0 = some (1, [false, false, true, false]) ∧
    (after 0x4188 (low [0, 0])).map r0 = some (0xFFFFFFFF, [true, false, false, false]) ∧
    (after 0x4188 (State.carry (low [5, 3]))).map r0 = some (2, [false, false, true, false]) := by decide

/-- The corner cases of R270. -/
theorem test_rsbs_negates :
    (after 0x4240 (low [0])).map r0 = some (0, [false, true, true, false]) ∧
    (after 0x4240 (low [0x80000000])).map r0 = some (0x80000000, [true, false, false, true]) := by decide

/-- A17, A18 and A19. -/
theorem test_comparisons :
    (after 0x2805 (low [0x80000000])).map r0 = some (0x80000000, [false, false, true, true]) ∧
    (after 0x4291 (low [7, 0xFFFFFFFF, 1])).map r0 = some (7, [true, false, true, false]) ∧
    (after 0x42D0 (low [0x7FFFFFFF, 0, 1])).map r0 = some (0x7FFFFFFF, [true, false, false, true]) := by decide

/-- S28 and A27. -/
theorem test_cmp_high :
    (after 0x454A ((low [0, 0, 5]).setX 9 5)).map (·.flags) = some ⟨false, true, true, false⟩ ∧
    refused 0x4508 start .cmpHighOperands = true := by decide

/-- A20, A21, A22 and A26. -/
theorem test_add_high :
    (after 0x4488 ((low [0, 2]).setX 8 0xFFFFFFFF)).map (·.x 8) = some 1 ∧
    (after 0x4478 { low [0x10] with pc := 0x102 }).map (·.lo 0) = some 0x116 ∧
    (after 0x448F (low [0, 0x21])).map (fun t => (t.pc, t.thumb)) = some (0x124, true) ∧
    refused 0x44FF start .addPcPc = true := by decide

/-- A23, A24 and A25. -/
theorem test_stack_pointer_sums :
    (after 0xB002 start).map (·.msp) = some 0x10000FF8 ∧ (after 0xB084 start).map (·.msp) = some 0x10000FE0 ∧
    (after 0xA901 start).map (·.lo 1) = some 0x10000FF4 ∧
    (after 0x448D (low [0, 0x0E])).map (·.msp) = some 0x10000FFC := by decide

/-- S2: Align rounds the PC operand down. -/
theorem test_adr_aligns : (after 0xA3F9 { start with pc := 0x102 }).map (·.lo 3) = some 0x4E8 := by decide

/-- S19, S20, S22, S23: C and V stay. -/
theorem test_logic :
    (after 0x4008 (State.carry (low [0xF0F0FF00, 0x0FF000FF]))).map r0 =
      some (0x00F00000, [false, false, true, false]) ∧
    (after 0x4308 (low [0xF0F0FF00, 0x0FF000FF])).map r0 = some (0xFFF0FFFF, [true, false, false, false]) ∧
    (after 0x4048 (low [0xF0F0FF00, 0x0FF000FF])).map r0 = some (0xFF00FFFF, [true, false, false, false]) ∧
    (after 0x4388 (low [0xF0F0FF00, 0x0FF000FF])).map r0 = some (0xF000FF00, [true, false, false, false]) := by decide

/-- L2, L8, L9 and S31. -/
theorem test_moves_and_tst :
    (after 0x43C0 (State.carry (low [0xFFFFFFFF]))).map r0 = some (0, [false, true, true, false]) ∧
    (after 0x4208 (low [0x80000000, 0x80000000])).map r0 = some (0x80000000, [true, false, false, false]) ∧
    (after 0x27FF start).map (·.lo 7) = some 0xFF ∧
    (after 0x2100 (low [0, 9])).map (fun t => (t.lo 1, t.flags.z)) = some (0, true) := by decide

/-- L4, L5 and S34: MOV changes no flag, MOV PC no T. -/
theorem test_mov :
    (after 0x4608 (low [5, 0])).map r0 = some (0, [false, false, false, false]) ∧
    (after 0x46F7 { start with lr := 0x105 }).map (fun t => (t.pc, t.thumb)) = some (0x104, true) ∧
    (after 0x46F7 { start with lr := 0xFFFFFFF9, ipsr := 3 }).map (fun t => (t.pc, t.ipsr)) = some (0xFFFFFFF8, 3) ∧
    (after 0x46E8 start).map (·.x 8) = some 0x10000FF0 := by decide

/-- L6, L7 and S36. -/
theorem test_muls :
    (after 0x4350 (low [0x10000, 0, 0x10000])).map r0 = some (0, [false, true, false, false]) ∧
    (after 0x4350 (low [0x12345678, 0, 0x9ABCDEF0])).map r0 = some (0x242D2080, [false, false, false, false]) := by
  decide

/-- H1, H2, H5 and L3. -/
theorem test_shift_immediate :
    (after 0x07D1 (low [0, 0, 3])).map (fun t => (t.lo 1, t.flags)) = some (0x80000000, ⟨true, false, true, false⟩) ∧
    (after 0x0808 (low [9, 0x80000000])).map r0 = some (0, [false, true, true, false]) ∧
    (after 0x1008 (low [0, 0x80000000])).map r0 = some (0xFFFFFFFF, [true, false, true, false]) ∧
    (after 0x0002 (State.carry (low [0x80000000]))).map (fun t => (t.lo 2, t.flags)) =
      some (0x80000000, ⟨true, false, true, false⟩) := by decide

/-- The table of register shifts at lengths 32, 33 and 256. -/
theorem test_shift_register :
    (after 0x4088 (low [0x80000001, 32])).map r0 = some (0, [false, true, true, false]) ∧
    (after 0x40C8 (low [0x80000001, 33])).map r0 = some (0, [false, true, false, false]) ∧
    (after 0x4108 (low [0x80000001, 33])).map r0 = some (0xFFFFFFFF, [true, false, true, false]) ∧
    (after 0x40C8 (State.carry (low [0x80000001, 256]))).map r0 = some (0x80000001, [true, false, true, false]) := by
  decide

/-- RORS at lengths 4, 64 and 255. -/
theorem test_rors :
    (after 0x41C8 (low [0x80000012, 4])).map r0 = some (0x28000001, [false, false, false, false]) ∧
    (after 0x41C8 (low [0x80000012, 64])).map r0 = some (0x80000012, [true, false, true, false]) ∧
    (after 0x41C8 (low [0x80000012, 255])).map r0 = some (0x25, [false, false, false, false]) := by decide

/-- E1 to E4. -/
theorem test_extends :
    (after 0xB248 (low [0, 0x180])).map (·.lo 0) = some 0xFFFFFF80 ∧
    (after 0xB208 (low [0, 0x18000])).map (·.lo 0) = some 0xFFFF8000 ∧
    (after 0xB2C8 (low [0, 0xFFFFFFFF])).map (·.lo 0) = some 0xFF ∧
    (after 0xB288 (low [0, 0xFFFFFFFF])).map (·.lo 0) = some 0xFFFF := by decide

/-- S37, E6 and S39. -/
theorem test_reverses :
    (after 0xBA00 (low [0x12345678])).map (·.lo 0) = some 0x78563412 ∧
    (after 0xBA48 (low [0, 0xAABBCCDD])).map (·.lo 0) = some 0xBBAADDCC ∧
    (after 0xBAC8 (low [0, 0x12340080])).map (·.lo 0) = some 0xFFFF8000 := by decide

/-- M1, M2 and M3. -/
theorem test_load_immediate :
    (after 0x6841 (low [0x10000000])).map (·.lo 1) = some 0x8001FF80 ∧
    (after 0x8841 (low [0x10000000])).map (·.lo 1) = some 0x1234 ∧
    (after 0x7841 (low [0x10000000])).map (·.lo 1) = some 0x56 := by decide

/-- M4, M5 and M6, and the same words unsigned. -/
theorem test_load_register :
    (after 0x5681 (low [0x10000000, 0, 4])).map (·.lo 1) = some 0xFFFFFF80 ∧
    (after 0x5E81 (low [0x10000000, 0, 6])).map (·.lo 1) = some 0xFFFF8001 ∧
    (after 0x5A81 (low [0x10000000, 0, 6])).map (·.lo 1) = some 0x8001 ∧
    (after 0x5C81 (low [0x10000000, 0, 4])).map (·.lo 1) = some 0x80 ∧
    (after 0x5881 (low [0x10000000, 0, 4])).map (·.lo 1) = some 0x8001FF80 := by decide

/-- M16 at A = 0x10000002: Align; and the largest SP offset, which reads blank memory. -/
theorem test_load_literal_and_sp :
    (after 0x4800 { start with pc := 0x10000002 }).map (·.lo 0) = some 0x8001FF80 ∧
    (after 0x9900 { start with msp := 0x10000004 }).map (·.lo 1) = some 0x8001FF80 := by decide

/-- M7, M8 and S5. -/
theorem test_stores :
    (after 0x7041 (low [0x10000000, 0xAABBCCDD])).map (wordAt · 0x10000000) = some 0x1234DD78 ∧
    (after 0x8041 (low [0x10000000, 0xAABBCCDD])).map (wordAt · 0x10000000) = some 0xCCDD5678 ∧
    (after 0x5068 (low [0x11223344, 8, 0, 0, 0, 0x10000000])).map (fun t => (byteOf t 0x10000008, byteOf t 0x1000000B)) =
      some (0x44, 0x11) := by decide

/-- M14: address arithmetic wraps; the byte and halfword forms; the SP form. -/
theorem test_store_addresses :
    (after 0x5081 (low [0xFFFFFFFC, 0xAABBCCDD, 8])).map (wordAt · 4) = some 0xAABBCCDD ∧
    (after 0x5481 (low [0x10000000, 0xDD, 1])).map (wordAt · 0x10000000) = some 0x1234DD78 ∧
    (after 0x5281 (low [0x10000000, 0xCCDD, 2])).map (wordAt · 0x10000000) = some 0xCCDD5678 ∧
    (after 0x60C2 (low [0x10000000, 0, 6])).map (wordAt · 0x1000000C) = some 6 ∧
    (after 0x9101 (low [0, 5])).map (wordAt · 0x10000FF4) = some 5 := by decide

/-- M12 and M15: HardFault with the register as it was, and a refusal. -/
theorem test_bad_accesses :
    (after 0x6801 (low [0x10000002, 77])).map (fun t => (t.ipsr, wordAt t (t.msp + 4), wordAt t (t.msp + 24))) =
      some (3, 77, 0x100) ∧
    refused 0x8801 (low [0xE000E010]) .ppbAccessSize = true := by decide

/-- M18, M19 and M21. -/
theorem test_ldm :
    (after 0xC905 (low [0, 0x10000000])).map (fun t => (t.lo 0, t.lo 1, t.lo 2)) =
      some (0x12345678, 0x10000008, 0x8001FF80) ∧
    (after 0xC906 (low [0, 0x10000000])).map (fun t => (t.lo 1, t.lo 2)) = some (0x12345678, 0x8001FF80) ∧
    (after 0xC901 (low [5, 0x10000002])).map (fun t => (t.ipsr, wordAt t t.msp)) = some (3, 5) := by decide

/-- S10, M20, S11 and S12. -/
theorem test_stm :
    (after 0xC15C (low [0, 0x10000100, 2, 3, 4, 5, 6])).map (fun t => (wordAt t 0x10000100, wordAt t 0x1000010C, t.lo 1)) =
      some (2, 6, 0x10000110) ∧
    (after 0xC106 (low [0, 0x10000100, 7])).map (fun t => (wordAt t 0x10000100, wordAt t 0x10000104, t.lo 1)) =
      some (0x10000100, 7, 0x10000108) ∧
    refused 0xC570 start .stmBaseNotLowest = true ∧ refused 0xCA00 start .emptyRegisterList = true := by decide

/-- S14 and S13 with the SP of `start`. -/
theorem test_push :
    (after 0xB504 { low [0, 0, 2] with lr := 0x105 }).map (fun t => (wordAt t 0x10000FE8, wordAt t 0x10000FEC, t.msp)) =
      some (2, 0x105, 0x10000FE8) ∧
    (after 0xB4F1 (low [0xA0, 0, 0, 0, 0xA4, 0xA5, 0xA6, 0xA7])).map
      (fun t => (wordAt t 0x10000FDC, wordAt t 0x10000FEC, t.msp)) = some (0xA0, 0xA7, 0x10000FDC) := by decide

/-- S15 and M22, from the words at 0x10000000. -/
theorem test_pop :
    (after 0xBD01 { start with msp := 0x10000000 }).map (fun t => (t.lo 0, t.msp, t.pc, t.thumb)) =
      some (0x12345678, 0x10000008, 0x8001FF80, false) ∧
    (after 0xBC41 { start with msp := 0x10000000 }).map (fun t => (t.lo 0, t.lo 6, t.msp, t.pc)) =
      some (0x12345678, 0x8001FF80, 0x10000008, 0x102) := by decide

/-- B2, B3 and B5. -/
theorem test_branches :
    (after 0xE7FE start).map (·.pc) = some 0x100 ∧ (after 0xE3FF { start with pc := 0x1000 }).map (·.pc) = some 0x1802 ∧
    (after 0xD00E { start with flags := ⟨false, true, false, false⟩ }).map (·.pc) = some 0x120 ∧
    (after 0xD00E start).map (·.pc) = some 0x102 := by decide

/-- B10, B12 and B14. -/
theorem test_bl :
    (afterWide 0xF7FFF87E { start with pc := 0x1000 }).map (fun t => (t.pc, t.lr)) = some (0x100, 0x1005) ∧
    (afterWide 0xF100F000 start).map (·.pc) = some 0x500104 ∧
    (afterWide 0xF400D000 { start with pc := 0x1000000 }).map (fun t => (t.pc, t.lr)) = some (4, 0x1000005) := by decide

/-- S45, B16, B18 and B19. -/
theorem test_bx :
    (after 0x4770 { start with lr := 0x105 }).map (fun t => (t.pc, t.thumb)) = some (0x104, true) ∧
    (after 0x4718 (low [0, 0, 0, 0x300])).map (fun t => (t.pc, t.thumb)) = some (0x300, false) ∧
    (after 0x4770 { start with lr := 0xFFFFFFF9 }).map (·.pc) = some 0xFFFFFFF8 ∧
    refused 0x4778 start .branchSpOrPc = true := by decide

/-- S46 and B19. -/
theorem test_blx :
    (after 0x4780 (low [0x301])).map (fun t => (t.lr, t.pc, t.thumb)) = some (0x103, 0x300, true) ∧
    refused 0x47E8 start .branchSpOrPc = true := by decide

/-- Y2, Y3, Y1 and S54: the stated bits and the mask of what is stated; the other bits of Rd are free values. -/
theorem test_mrs :
    { start with flags := ⟨true, false, true, false⟩ }.specRead .psr = (0xA0000000, 0xF100003F) ∧
    { start with spsel := true }.specRead .msp = (0x10000FF0, 0xFFFFFFFF) ∧
    { start with ipsr := 19 }.specRead .ipsr = (19, 0x3F) ∧
    { start with primask := true }.specRead .primask = (1, 1) ∧
    (afterWide 0xF3EF8205 (low [0, 7])).map (fun t => (t.lo 1, t.pc, t.flags)) = some (7, 0x104, start.flags) := by
  decide

/-- Y4, Y5, Y6, Y8 and S55. -/
theorem test_msr :
    (afterWide 0xF3808800 (low [0x60000000])).map (·.flags) = some ⟨false, true, true, false⟩ ∧
    (afterWide 0xF3808809 (low [0x10000803])).map (·.psp) = some 0x10000800 ∧
    (afterWide 0xF3818814 { low [0, 2] with ipsr := 3 }).map (·.spsel) = some false ∧
    (afterWide 0xF3818814 (low [0, 2])).map (·.spsel) = some true ∧
    (afterWide 0xF3828810 (low [0, 0, 0xFFFFFFFF])).map (·.primask) = some true := by decide

/-- Y9, Y15, Y16 and Y17. -/
theorem test_cps_hints_barriers :
    (after 0xB672 start).map (·.primask) = some true ∧
    (after 0xB662 { start with primask := true }).map (·.primask) = some false ∧
    (after 0xBF40 start).map (·.event) = some true ∧ (after 0xBF10 start) = some { start with pc := 0x102 } ∧
    (afterWide 0xF3BF8F4F start) = some { start with pc := 0x104 } := by decide

/-- NOP, WFE by both values of `WfeMode`, WFI with an interrupt that PRIMASK holds back (Y14), and without one. -/
theorem test_waits :
    (after 0xBF00 start).map (·.pc) = some 0x102 ∧
    (after 0xBF20 { start with event := true }).map (fun t => (t.event, t.run)) = some (false, .running) ∧
    refused 0xBF20 { start with platform := { start.platform with wfeMode := .refuse } } .wfeUnusable = true ∧
    (after 0xBF30 { start with primask := true, nvic := { start.nvic with pending := setBit 0 21, enable := setBit 0 5 } }).map
      (·.run) = some .running ∧
    (after 0xBF30 start).map (·.run) = some (.sleeping .wfi) := by decide

/-- Y11, Y13 and X14: HardFault with the instruction's own address stacked, and lockup. -/
theorem test_faulting :
    (after 0xDE00 start).map (fun t => (t.ipsr, wordAt t (t.msp + 24))) = some (3, 0x100) ∧
    (after 0xBEAB start).map (fun t => (t.ipsr, wordAt t (t.msp + 24))) = some (3, 0x100) ∧
    (afterWide 0xF7F0A000 { start with ipsr := 3, nvic := { start.nvic with active := setBit 0 3 } }).map (·.run) =
      some .lockup := by decide

/-- S58 and X9. -/
theorem test_svc :
    (after 0xDF32 start).map (fun t => (t.ipsr, wordAt t (t.msp + 24), t.lr)) = some (11, 0x102, 0xFFFFFFF9) ∧
    (after 0xDF32 { start with primask := true }).map (fun t => (t.ipsr, wordAt t (t.msp + 24))) =
      some (3, 0x100) := by decide

/-- X1, X3 and X4: IRQ 5 at a boundary. -/
def irq5 (s : State) : State :=
  { s with
    flags := ⟨true, false, true, false⟩
    nvic := { s.nvic with pending := setBit 0 21, enable := setBit 0 5 } }

/-- The next state of a step. -/
def stepped (s : State) : Option State := match step s with | .next t => some t | _ => none

theorem test_exception_entry :
    (stepped (irq5 { start with pc := 0x204, msp := 0x10001000 })).map
      (fun t => (t.msp, wordAt t 0x10000FF8, wordAt t 0x10000FFC, t.lr, t.ipsr)) =
      some (0x10000FE0, 0x204, 0xA1000000, 0xFFFFFFF9, 21) ∧
    (stepped (irq5 { start with msp := 0x10000FFC })).map (fun t => (t.msp, wordAt t 0x10000FF4)) =
      some (0x10000FD8, 0xA1000200) := by decide

theorem test_exception_entry_from_process_stack :
    (stepped (irq5 { start with psp := 0x10000800, spsel := true })).map
      (fun t => (t.psp, t.msp, t.lr, t.spsel, t.nvic.active.getLsbD 21, t.nvic.pending.getLsbD 21)) =
      some (0x100007E0, 0x10000FF0, 0xFFFFFFFD, false, true, false) := by decide

/-- The handler of IRQ 5 as X11 finds it, on a frame at 0x10000FE0 with bit 9 of its PSR set. -/
def handler5 : State :=
  { start with
    ipsr := 21, lr := 0xFFFFFFF9, msp := 0x10000FE0
    nvic := { start.nvic with active := setBit 0 21 }
    mem := Memory.store (Memory.store [] 0x10000FF8 4 0x204) 0x10000FFC 4 0xA1000200 }

theorem test_exception_return :
    (after 0x4770 handler5).map (fun t => (t.pc, t.msp, t.ipsr, t.flags, t.thumb)) =
      some (0x204, 0x10001004, 0, ⟨true, false, true, false⟩, true) ∧
    (after 0x4770 handler5).map (·.nvic.active) = some 0 ∧
    refused 0x4770 { handler5 with lr := 0xFFFFFFE9 } .reservedExcReturn = true ∧
    refused 0x4770 { handler5 with lr := 0xFFFFFFF1 } .inconsistentExcReturn = true := by decide

/-- X2 and X18: tail-chaining, and a pulse while the handler runs. -/
theorem test_tail_chain_and_pulse :
    (after 0x4770 { handler5 with nvic := { handler5.nvic with pending := setBit 0 17, enable := setBit 0 1 } }).map
      (fun t => (t.ipsr, t.msp, t.lr, t.nvic.active)) = some (17, 0x10000FE0, 0xFFFFFFF9, setBit 0 17) ∧
    (handler5.sampleLines (setBit 0 5)).nvic.pending = setBit 0 21 := by decide

/-- A pulse that comes and goes between two processor steps is latched (60_exceptions.md R440): X18 with both edges
before one step. -/
theorem test_pulse_between_steps :
    (handler5.takeSample ⟨[.sampled 0, .sampled (setBit 0 5)], 0⟩).nvic.pending = setBit 0 21 := by decide

/-- A device's answer, and a store that switches the memory map (70_reset_and_hazards.md R493). -/
theorem test_device_answers :
    let s := { low [0x40000000] with answers := [⟨0x1234, some [⟨0, 4, .ram⟩]⟩] }
    (after 0x7801 s).map (fun t => (t.lo 1, t.answers)) = some (0x34, []) ∧
    (after 0x6001 s).map (fun t => (t.kindAt 0, t.kindAt 4, t.kindAt 0x40000000)) = some (.ram, .absent, .absent) := by
  decide

/-- A PUSH whose second word meets a bus error and a reset inside the stacking of its HardFault
(70_reset_and_hazards.md R480): the transfer's first word and the frame's first word are stored, nothing else. -/
theorem test_reset_in_faulting_transfer :
    let s := { low [7, 9] with
      msp := 0x10000FFC, env := { quietEnv with resetInEntry := some 1 }
      platform := { Platform.default with memMap := ⟨0x10000FF8, 4, .absent⟩ :: Platform.default.memMap } }
    (after 0xB403 s).map (fun t => (wordAt t 0x10000FF4, wordAt t 0x10000FD8, wordAt t 0x10000FDC, t.run)) =
      some (7, 7, 0, .inReset) := by decide

/-- The table of 2.8: RELOAD 3 from 0, with TICKINT. -/
theorem test_systick :
    let t : State := { start with sysTick := ⟨true, true, true, false, 3, 0⟩ }
    (t.ticks 1).sysTick.current = 3 ∧ (t.ticks 4).sysTick.current = 0 ∧ (t.ticks 4).sysTick.countFlag = true ∧
    (t.ticks 3).nvic.pending = 0 ∧ (t.ticks 4).nvic.pending = setBit 0 15 ∧
    (t.ticks 4).sysTick.csrWord = 0x00010007 := by decide

/-- X19, X21 and X22 through stores. -/
theorem test_core_peripherals :
    (after 0x6001 (low [0xE000ED04, 0x10000000])).map (·.nvic.pending) = some (setBit 0 14) ∧
    (after 0x6001 (low [0xE000ED20, 0xFFFFFFFF])).map (·.nvic.shpr3Word) = some 0xC0C00000 ∧
    (after 0x6001 (low [0xE000E404, 0x40000000])).map (·.nvic.priority 23) = some 64 ∧
    (after 0x6801 (low [0xE000ED00])).map (·.lo 1) = some 0x410CC200 := by decide

/-- Z1: reset released with a vector table. -/
theorem test_reset_boots :
    (stepped { start with run := .inReset, mem := Memory.store (Memory.store [] 0 4 0x10001002) 4 4 0xC1 }).map
      (fun t => (t.msp, t.pc, t.thumb, t.run)) = some (0x10001000, 0xC0, true, .running) := by decide

/-- From State.reset with an instruction placed, the first step runs it (S33). -/
theorem test_first_step : (stepped (State.reset.withFetchWord 16 0x2317)).map (·.lo 3) = some 23 := by decide

/-! ### Witnesses: states and operands that meet the hypotheses of the obligations, clause by clause -/

/-- A match on the outcome that answers true shows a next state. -/
theorem next_of_match {o : Result} {p : State → Bool} (h : (match o with | .next t => p t | _ => false) = true) :
    ∃ t, o = .next t ∧ p t = true := by
  cases o with
  | next t => exact ⟨t, rfl, h⟩
  | fault _ => simp at h
  | refused _ => simp at h

/-- `start` with bytes of code at the PC. -/
def code (pc : Word) (bytes : List Byte) : State :=
  { start with pc := pc, mem := Memory.storeBytes start.mem pc.toNat bytes }

/-- A platform with RAM at 0 to 0x3F and at 0x10000000 to 0x10001FFF and nothing else. -/
def smallPlatform : Platform := { Platform.default with memMap := [⟨0, 0x40, .ram⟩, ⟨0x10000000, 0x2000, .ram⟩] }

/-- `start` satisfies the invariant. -/
theorem start_inv : start.Inv :=
  ⟨by decide, by decide, by decide, by decide, by decide, by decide⟩

/-- So does the handler of IRQ 5. -/
theorem handler5_inv : handler5.Inv :=
  ⟨by decide, by decide, by decide, by decide, by decide, by decide⟩

theorem witness_DecodeOfEncodedBytes :
    (Instr.reservedHint 5).encodable = true ∧ (Instr.reservedHint 15).encodable = true ∧
    (Instr.bl 0xFFFFFF).encodable = true := by decide

theorem witness_EncodeOfDecodedBytes :
    decode [0x0A, 0x40, 0x99] = .ok (.ands 2 1, [0x99]) ∧
    decode [0x00, 0xF0, 0x7E, 0xF8] = .ok (.bl 0x7E, []) := ⟨rfl, rfl⟩

theorem witness_UnpredictableEncodingsRefused :
    (Instr.bx 13 0).encodable = true ∧ (Instr.bx 13 0).wellFormed = false ∧
    (Instr.bx 14 0).encodable = true ∧ (Instr.bx 14 0).wellFormed = true := by decide

theorem witness_StepRunsTheDecodedInstruction :
    let s := code 0x3FFFFFFE [0x00, 0xBF]
    let w := code 0x100 [0xBF, 0xF3, 0x5F, 0x8F]
    (runs s ∧ s.thumb = true ∧ s.pcAligned ∧ executeNever s.pc = false ∧ readable s s.pc) ∧
    decode (codeAt s) = .ok (.nop, [0x00, 0x00]) ∧
    (runs w ∧ w.thumb = true ∧ w.pcAligned ∧ executeNever w.pc = false ∧ readable w w.pc ∧
      executeNever (w.pc + 2) = false ∧ readable w (w.pc + 2)) ∧
    decode (codeAt w) = .ok (.dmb 15 sbBarrier, []) := by
  refine ⟨by decide, rfl, by decide, rfl⟩

theorem witness_FetchFaultsTakeHardFault :
    let t0 := { start with thumb := false }
    let xn := { start with pc := 0x40000000 }
    let ab := { start with pc := 0x10002000, platform := smallPlatform }
    let w := { code 0x10001FFE [0x00, 0xF0] with platform := smallPlatform }
    let ud := code 0x100 [0x00, 0xB1]
    (∀ s ∈ [t0, xn, ab, w, ud], runs s ∧ -1 < s.nextEnv.agents.execPriority ∧ canEnter 3 s.nextEnv.agents ∧
      s.pcAligned) ∧
    (xn.thumb = true ∧ executeNever xn.pc = true) ∧
    (ab.thumb = true ∧ inPpb ab.pc = false ∧ ab.kindAt ab.pc = .absent) ∧
    (executeNever w.pc = false ∧ readable w w.pc ∧ isWide (halfAt w w.pc).toNat = true ∧
      inPpb (w.pc + 2) = false ∧ w.kindAt (w.pc + 2) = .absent) ∧
    (executeNever ud.pc = false ∧ readable ud ud.pc ∧ isWide (halfAt ud ud.pc).toNat = false) ∧
    decode (codeAt ud) = .error .undefined := by
  refine ⟨by decide, by decide, by decide, by decide, by decide, rfl⟩

theorem witness_ComparisonsWriteFlagsOnly :
    (8 ≤ (2 : Reg).toNat ∨ 8 ≤ (8 : Reg).toNat) ∧ (2 : Reg) ≠ 15 ∧ (8 : Reg) ≠ 15 ∧
    ((7 : Reg).toNat < 8 ∧ (0 : Reg).toNat < 8) := by decide

/-- RightShiftFunctions and LeftShiftAndRotateFunctions at the lengths where their clauses meet. -/
theorem witness_ShiftFunctions :
    (asrC 0x80000001 0 true = ⟨0x80000001, true⟩ ∧ asrC 0x80000001 1 false = ⟨0xC0000000, true⟩ ∧
      asrC 0x80000001 31 false = ⟨0xFFFFFFFF, false⟩ ∧ asrC 0x80000001 32 false = ⟨0xFFFFFFFF, true⟩) ∧
    (lsrC 0x80000001 31 false = ⟨1, false⟩ ∧ lsrC 0x80000001 32 false = ⟨0, true⟩ ∧
      lsrC 0x80000001 33 true = ⟨0, false⟩) ∧
    (lslC 0x80000001 31 true = ⟨0x80000000, false⟩ ∧ lslC 0x80000001 32 false = ⟨0, true⟩ ∧
      lslC 0x80000001 33 true = ⟨0, false⟩) ∧
    (rorC 0x80000012 31 true = ⟨0x25, false⟩ ∧ rorC 0x80000012 32 false = ⟨0x80000012, true⟩ ∧
      rorC 0x80000012 33 true = ⟨0x40000009, false⟩) := by decide

theorem witness_AddressesAndStackPointerArithmetic : start.stacksAligned := by decide

theorem witness_HighMovesWriteOneRegister : (13 : Reg) ≠ 15 ∧ (14 : Reg) ≠ 15 ∧ (0 : Reg) ≠ 15 := by decide

theorem witness_BranchesReachTheirTarget :
    start.pcAligned ∧ start.flags.passes .ne = true ∧ start.flags.passes .eq = false := by decide

theorem witness_RegisterBranchesReachTheirTarget :
    (14 : Reg) ≠ 13 ∧ (14 : Reg) ≠ 15 ∧ start.ipsr = 0 ∧ start.pcAligned ∧
    handler5.ipsr ≠ 0 ∧ ({ handler5 with lr := 0xEFFFFFFF }.x 14).toNat < 0xF0000000 := by decide

/-- R0 at the data, R1 at the top of RAM. -/
def pointers : State := low [0x10000000, 0, 4, 0xFFFFFFFC]

theorem witness_LoadsReadLittleEndian :
    (pointers.addrImm 0 1 4).toNat % 4 = 0 ∧ readable pointers (pointers.addrImm 0 1 4) ∧
    (pointers.addrReg 0 2).toNat % 4 = 0 ∧ readable pointers (pointers.addrReg 0 2) ∧
    (pointers.addrReg 2 3).toNat = 0 ∧ readable pointers (pointers.addrReg 2 3) ∧
    (pointers.addrSp 255).toNat % 4 = 0 ∧ readable pointers (pointers.addrSp 255) ∧
    (pointers.addrLit 0).toNat % 4 = 0 ∧ readable pointers (pointers.addrLit 0) ∧
    (pointers.addrImm 0 31 2).toNat % 2 = 0 ∧ readable pointers (pointers.addrImm 0 31 2) ∧
    readable pointers (pointers.addrImm 0 31 1) := by decide

theorem witness_StoresWriteLittleEndian :
    pointers.memoryCanonical ∧ (pointers.addrImm 0 31 4).toNat % 4 = 0 ∧ writable pointers (pointers.addrImm 0 31 4) ∧
    (pointers.addrReg 0 2).toNat % 4 = 0 ∧ writable pointers (pointers.addrReg 0 2) ∧
    (pointers.addrSp 0).toNat % 4 = 0 ∧ writable pointers (pointers.addrSp 0) ∧
    (pointers.addrImm 0 1 2).toNat % 2 = 0 ∧ writable pointers (pointers.addrImm 0 1 2) ∧
    writable pointers (pointers.addrImm 0 31 1) := by decide

/-- A platform with a ROM in place of the device region: it answers a store as its kind says. -/
def withRom (k : MemKind) (s : State) : State :=
  { s with platform := { Platform.default with memMap := ⟨0x40000000, 0x20000000, k⟩ :: Platform.default.memMap } }

theorem witness_BadAddressesTakeHardFault :
    let s := { low [0x10000001] with platform := smallPlatform }
    let a := { low [0x20000000] with platform := smallPlatform }
    let b := withRom .romBusError (low [0x40000000])
    let h := { a with ipsr := 3, nvic := { a.nvic with active := setBit 0 3 } }
    (-1 < s.execPriority ∧ canEnter 3 s ∧ s.undisturbed ∧ (s.lo 0).toNat % 4 ≠ 0 ∧ (1 : RegList) ≠ 0 ∧
      baseNotLowest 0 1 = false) ∧
    ((.ldrImm 1 0 1, s.addrImm 0 1 4, 4, false) ∈ loadForms s 1 0 2 1 0 ∧ (s.addrImm 0 1 4).toNat % 4 ≠ 0) ∧
    ((.strhImm 1 0 1, s.addrImm 0 1 2, 2) ∈ storeForms s 1 0 2 1 0 ∧ (s.addrImm 0 1 2).toNat % 2 ≠ 0) ∧
    (-1 < a.execPriority ∧ canEnter 3 a ∧ (.ldrbImm 1 0 0, a.addrImm 0 0 1, 1, false) ∈ loadForms a 1 0 2 0 0 ∧
      unreadable a (a.addrImm 0 0 1)) ∧
    (-1 < b.execPriority ∧ canEnter 3 b ∧ (.strImm 1 0 0, b.addrImm 0 0 4, 4) ∈ storeForms b 1 0 2 0 0 ∧
      unwritable b (b.addrImm 0 0 4)) ∧
    (h.execPriority ≤ -1 ∧ unreadable h (h.addrImm 0 0 1)) := by
  refine ⟨by decide, by decide, by decide, by decide, by decide, by decide⟩

theorem witness_DevicesAndPeripheralsAnswer :
    let d := low [0x40000000]
    let e := { d with answers := [⟨0x1234, none⟩] }
    let p := low [0xE000E010]
    let q := low [0xE000E000]
    let r := withRom .romIgnore d
    ((.ldrhReg 1 0 2, d.addrReg 0 2, 2, false) ∈ loadForms d 1 0 2 0 0 ∧ (d.addrReg 0 2).toNat % 2 = 0 ∧
      inPpb (d.addrReg 0 2) = false ∧ d.kindAt (d.addrReg 0 2) = .device ∧ d.answers = []) ∧
    (e.kindAt (e.addrReg 0 2) = .device ∧ e.answers = ⟨0x1234, none⟩ :: []) ∧
    ((.strImm 1 0 0, d.addrImm 0 0 4, 4) ∈ storeForms d 1 0 2 0 0 ∧ (d.addrImm 0 0 4).toNat % 4 = 0 ∧
      d.kindAt (d.addrImm 0 0 4) = .device) ∧
    (inPpb (r.addrImm 0 0 4) = false ∧ r.kindAt (r.addrImm 0 0 4) = .romIgnore) ∧
    ((.ldrImm 1 0 0, p.addrImm 0 0 4, 4, false) ∈ loadForms p 1 0 2 0 0 ∧
      ppbRegAt (p.addrImm 0 0 4) = some .systCsr) ∧
    (inPpb (q.addrImm 0 0 4) = true ∧ ppbRegAt (q.addrImm 0 0 4) = none ∧ inPpb (p.addrImm 0 0 1) = true) := by
  refine ⟨by decide, by decide, by decide, by decide, by decide, by decide⟩

theorem witness_ppbWrite :
    (∃ t, (low [0xE000E010]).ppbWrite 7 .systCsr = .ok () t) ∧ start.ppbWrite 0x80000000 .icsr = .refused .nmiAbsent :=
  ⟨⟨_, rfl⟩, rfl⟩

theorem witness_LoadMultipleFillsTheList :
    (0xFF : RegList) ≠ 0 ∧ pointers.undisturbed ∧ (pointers.lo 0).toNat % 4 = 0 ∧
    (∀ k < bitCount 0xFF, readable pointers (nth (pointers.lo 0) k)) := by decide

theorem witness_StoreMultipleStoresTheList :
    (0xFF : RegList) ≠ 0 ∧ baseNotLowest 0 0xFF = false ∧ pointers.undisturbed ∧ pointers.memoryCanonical ∧
    (pointers.lo 0).toNat % 4 = 0 ∧ (∀ k < bitCount 0xFF, writable pointers (nth (pointers.lo 0) k)) ∧
    (3 : RegList) ≠ 0 ∧ baseNotLowest 1 3 = true := by decide

theorem witness_PushStoresBelowTheStack :
    pointers.undisturbed ∧ pointers.memoryCanonical ∧ pointers.stacksAligned ∧
    (∀ k < bitCount 0xFF + 1, writable pointers (nth (pointers.pushBase true 0xFF) k)) ∧
    (∀ k < 1, writable pointers (nth (pointers.pushBase true 0) k)) := by decide

theorem witness_PopLoadsFromTheStack :
    pointers.undisturbed ∧ pointers.stacksAligned ∧ (∀ k < bitCount 0xFF + 1, readable pointers (nth pointers.sp k)) ∧
    pointers.ipsr = 0 ∧ handler5.ipsr ≠ 0 ∧ (wordAt handler5 (nth handler5.sp 0)).toNat < 0xF0000000 := by decide

/-- IRQ 5 comes, enabled, after two transfers. -/
def cutShort : State :=
  { pointers with
    nvic := { pointers.nvic with enable := setBit 0 5 }
    env := { quietEnv with mid := some ⟨2, ⟨[], setBit 0 5⟩⟩ } }

theorem witness_AbandonedTransfersRestart :
    cutShort.env.resetInTransfer = none ∧ cutShort.env.mid = some ⟨2, ⟨[], setBit 0 5⟩⟩ ∧
    cutShort.interrupted.preempting.isSome = true ∧ cutShort.memoryCanonical ∧ cutShort.stacksAligned ∧
    2 < bitCount 7 ∧ rank 7 1 < 2 ∧ baseNotLowest 0 7 = false ∧ (cutShort.lo 0).toNat % 4 = 0 ∧
    (∀ k < 2, writable cutShort (nth (cutShort.pushBase true 7) k)) ∧
    (∀ k < 2, writable cutShort (nth (cutShort.lo 0) k)) ∧ (∀ k < 2, readable cutShort (nth cutShort.sp k)) ∧
    (∀ k < 2, readable cutShort (nth (cutShort.lo 0) k)) := by decide

/-- The only exception waiting lets PUSH {LR} and POP {PC} be abandoned before their one transfer. -/
theorem witness_AbandonedTransfersRestart_alone :
    let s := { cutShort with env := { quietEnv with mid := some ⟨0, ⟨[], setBit 0 5⟩⟩ } }
    s.interrupted.preempting.isSome = true ∧ 0 < bitCount 0 + true.toNat := by decide

theorem witness_BusErrorsInsideTransfers :
    let hole := fun (a : Nat) (s : State) =>
      { s with platform := { Platform.default with memMap := ⟨a, 4, .absent⟩ :: Platform.default.memMap } }
    let l := hole 0x10000104 (low [0x10000100])
    let p := hole 0x10000FF8 { low [] with msp := 0x10000FFC }
    let q := hole 0x10001000 { low [] with msp := 0x10000FFC }
    (l.undisturbed ∧ -1 < l.execPriority ∧ canEnter 3 l ∧ 1 < bitCount 3 ∧ baseNotLowest 0 3 = false ∧ (l.lo 0).toNat % 4 = 0 ∧
      (∀ j < 1, readable l (nth (l.lo 0) j) ∧ writable l (nth (l.lo 0) j)) ∧ unreadable l (nth (l.lo 0) 1) ∧
      unwritable l (nth (l.lo 0) 1)) ∧
    (p.undisturbed ∧ -1 < p.execPriority ∧ canEnter 3 p ∧ 1 < bitCount 1 + true.toNat ∧
      (∀ j < 1, writable p (nth (p.pushBase true 1) j)) ∧ unwritable p (nth (p.pushBase true 1) 1)) ∧
    (q.undisturbed ∧ -1 < q.execPriority ∧ canEnter 3 q ∧ 1 < bitCount 1 + true.toNat ∧
      (∀ j < 1, readable q (nth q.sp j)) ∧ unreadable q (nth q.sp 1)) := by
  refine ⟨by decide, by decide, by decide⟩

theorem witness_ExceptionEntryStacksAndEnters :
    canEnter 3 start ∧ canEnter 47 start ∧ canEnter 11 { start with msp := 0x10000FFC } ∧
    canEnter 15 { start with psp := 0x10000800, spsel := true } ∧ canEnter 3 handler5 := by
  refine ⟨by decide, by decide, by decide, by decide, by decide⟩

/-- `start` with SVCall at priority 64 and IRQ 5 enabled at priority 0, its line asserted while an SVC runs. -/
def lateIrq : State :=
  { start with
    nvic := { start.nvic with enable := setBit 0 5, svcPrio := 1 }
    env := { quietEnv with mid := some ⟨0, ⟨[], setBit 0 5⟩⟩ } }

/-- S58's SVC with a higher exception that comes late: IRQ 5 is entered with the address after the SVC stacked, and
SVCall stays pending (45_miscellaneous.md R383, 60_exceptions.md R409). -/
theorem test_svc_late_arrival :
    (after 0xDF32 lateIrq).map (fun t => (t.ipsr, wordAt t (t.msp + 24), t.nvic.pending.getLsbD 11)) =
      some (21, 0x102, true) := by decide

theorem witness_SupervisorCallTakesSVCall :
    (start.nvic.priority 11 < start.execPriority ∧ start.env.mid = none ∧ start.preempting = none ∧
      canEnter 11 start) ∧
    (lateIrq.nvic.priority 11 < lateIrq.execPriority ∧ canEnter 21 (lateIrq.pend 11).interrupted ∧
      (setBit 0 5 : BitVec 32).getLsbD 5 = true ∧ lateIrq.nvic.enable.getLsbD 5 = true ∧
      lateIrq.nvic.active.getLsbD (16 + 5) = false ∧ lateIrq.nvic.priority (16 + 5) < lateIrq.nvic.priority 11 ∧
      (lateIrq.pend 11).interrupted.preempting = some 21) ∧
    (let m := { start with primask := true }
     m.execPriority ≤ m.nvic.priority 11 ∧ -1 < m.execPriority ∧ canEnter 3 m) := by decide

theorem witness_FaultingInstructionsTakeHardFault :
    let h := { start with ipsr := 3, nvic := { start.nvic with active := setBit 0 3 } }
    (-1 < start.execPriority ∧ canEnter 3 start ∧ start.platform.debugger = false) ∧ h.execPriority ≤ -1 ∧
    { start with platform := { start.platform with debugger := true } }.platform.debugger = true := by decide

theorem witness_EntryThenReturnRestores :
    start.Inv ∧ start.run = .running ∧ canEnter 21 start ∧ start.nvic.active.getLsbD 21 = false ∧
    (0x204 : Word).toNat % 2 = 0 ∧
    ∃ t, takeException 21 0x204 start = .next t ∧ (t.deactivateCurrent.preempting == none) = true :=
  ⟨start_inv, by decide, by decide, by decide, by decide, next_of_match (by decide)⟩

/-- The same from inside a handler, on the other form of EXC_RETURN. -/
theorem witness_EntryThenReturnRestores_nested :
    handler5.Inv ∧ handler5.run = .running ∧ canEnter 3 handler5 ∧ handler5.nvic.active.getLsbD 3 = false ∧
    ∃ t, takeException 3 0x204 handler5 = .next t ∧ (t.deactivateCurrent.preempting == none) = true :=
  ⟨handler5_inv, by decide, by decide, by decide, next_of_match (by decide)⟩

/-- BX LR in the handler of IRQ 5 is an exception return. -/
theorem returnsBy_bx (s : State) (h : s.ipsr ≠ 0) (hl : 0xF0000000 ≤ s.lr.toNat) :
    returnsBy (.bx 14 sbBranch) s s.lr s :=
  ⟨h, hl, Or.inl ⟨14, rfl, by decide, by decide, rfl, rfl⟩⟩

/-- The handler of IRQ 5 with R0 and an EXC_RETURN value below its frame. -/
def popper : State :=
  { handler5 with
    msp := 0x10000FD8
    mem := Memory.store (Memory.store handler5.mem 0x10000FD8 4 5) 0x10000FDC 4 0xFFFFFFF9 }

/-- What POP of R0 and PC leaves before it writes the PC. -/
def poppedR0 : State := { popper with r := popper.r.setIfInBounds 0 5, msp := 0x10000FE0 }

/-- POP with R0 and PC is an exception return there. -/
theorem returnsBy_pop : returnsBy (.pop true 1) popper 0xFFFFFFF9 poppedR0 :=
  ⟨by decide, by decide, Or.inr ⟨1, rfl, by decide, by decide, by decide, by decide, rfl,
    by unfold sameHigh; decide, by decide⟩⟩

/-- Frames that fit, one with an odd return address and one that names another exception; to Thread mode and to a
handler. -/
theorem witness_ReturnsRestoreTheFrame :
    let n := { handler5 with
      lr := 0xFFFFFFF1, mem := Memory.store handler5.mem 0x10000FFC 4 0x0100000F
      nvic := { handler5.nvic with active := setBit (setBit 0 21) 15 } }
    let o := { handler5 with mem := Memory.store handler5.mem 0x10000FF8 4 0x205 }
    let b := { handler5 with mem := Memory.store handler5.mem 0x10000FFC 4 0x0100000F }
    returnsBy (.bx 14 sbBranch) handler5 0xFFFFFFF9 handler5 ∧ returnsBy (.bx 14 sbBranch) n 0xFFFFFFF1 n ∧
    returnsBy (.bx 14 sbBranch) o 0xFFFFFFF9 o ∧ returnsBy (.bx 14 sbBranch) b 0xFFFFFFF9 b ∧
    (∀ s ∈ [handler5, n, o, b], s.stacksAligned ∧ returnAgrees s s.lr ∧ s.deactivateCurrent.preempting = none ∧
      ∀ k < 8, readable s (nth (frameOf s s.lr) k)) ∧
    (poppedR0.stacksAligned ∧ returnAgrees poppedR0 0xFFFFFFF9 ∧ poppedR0.deactivateCurrent.preempting = none ∧
      ∀ k < 8, readable popper (nth (frameOf poppedR0 0xFFFFFFF9) k)) ∧
    ((wordAt handler5 0x10000FF8).getLsbD 0 = false ∧ (wordAt handler5 0x10000FFC).setWidth 6 = 0#6) ∧
    ((wordAt n 0x10000FFC).setWidth 6 = 15#6 ∧ n.deactivateCurrent.nvic.active.getLsbD 15 = true) ∧
    (wordAt o 0x10000FF8).getLsbD 0 = true ∧ (wordAt b 0x10000FFC).setWidth 6 ≠ 0#6 := by
  refine ⟨returnsBy_bx _ (by decide) (by decide), returnsBy_bx _ (by decide) (by decide),
    returnsBy_bx _ (by decide) (by decide), returnsBy_bx _ (by decide) (by decide), by decide, by decide, by decide,
    by decide, by decide, by decide⟩

/-- IRQ 1 waits while the handler of IRQ 5 returns to Thread mode, or to a preempted handler, by BX and by POP. -/
theorem witness_TailChainingKeepsTheFrame :
    let v := { handler5.nvic with pending := setBit 0 17, enable := setBit 0 1 }
    let s := { handler5 with nvic := v }
    let w := { handler5 with lr := 0xFFFFFFF1,
                             nvic := { v with active := setBit (setBit 0 21) 15, sysTickPrio := 1 } }
    let u := { poppedR0 with nvic := v }
    returnsBy (.bx 14 sbBranch) s 0xFFFFFFF9 s ∧ returnsBy (.bx 14 sbBranch) w 0xFFFFFFF1 w ∧
    returnsBy (.pop true 1) { popper with nvic := v } 0xFFFFFFF9 u ∧
    (returnAgrees s s.lr ∧ s.deactivateCurrent.preempting = some 17 ∧ readable s (vectorAddress 17)) ∧
    (returnAgrees w w.lr ∧ w.deactivateCurrent.preempting = some 17 ∧ readable w (vectorAddress 17)) ∧
    (returnAgrees u 0xFFFFFFF9 ∧ u.deactivateCurrent.preempting = some 17) := by
  refine ⟨returnsBy_bx _ (by decide) (by decide), returnsBy_bx _ (by decide) (by decide),
    ⟨by decide, by decide, Or.inr ⟨1, rfl, by decide, by decide, by decide, by decide, rfl,
      by unfold sameHigh; decide, by decide⟩⟩, by decide, by decide, by decide⟩

theorem witness_ReservedReturnsRefused :
    let s := { handler5 with lr := 0xF0000000 }
    let t := { handler5 with lr := 0xFFFFFFF1 }
    let u := { handler5 with nvic := { handler5.nvic with active := setBit (setBit 0 21) 15 } }
    (returnsBy (.bx 14 sbBranch) s 0xF0000000 s ∧ s.lr ≠ 0xFFFFFFF1 ∧ s.lr ≠ 0xFFFFFFF9 ∧ s.lr ≠ 0xFFFFFFFD) ∧
    (returnsBy (.bx 14 sbBranch) t 0xFFFFFFF1 t ∧ t.othersActive = false) ∧
    (returnsBy (.bx 14 sbBranch) u 0xFFFFFFF9 u ∧ u.othersActive = true) ∧
    (s.ipsr ≠ 0 ∧ (14 : Reg) ≠ 13 ∧ (14 : Reg) ≠ 15 ∧ 0xF0000000 ≤ (s.x 14).toNat) := by
  refine ⟨⟨returnsBy_bx _ (by decide) (by decide), by decide⟩, ⟨returnsBy_bx _ (by decide) (by decide), by decide⟩,
    ⟨returnsBy_bx _ (by decide) (by decide), by decide⟩, by decide⟩

/-- Holes at a vector, at HardFault's vector too, in the frame of a return and under the stack pointer. -/
theorem witness_BusErrorsInEntryAndReturn :
    let hole := fun (a : Nat) (s : State) =>
      { s with platform := { s.platform with memMap := ⟨a, 4, .absent⟩ :: s.platform.memMap } }
    let v := hole 0x54 start
    let z := hole 0xC v
    let p := hole 0x10000FFC handler5
    let o := hole 0x10000FF0 handler5
    let e := hole 0x10000FD4 start
    (21 ∈ exceptionNumbers ∧ v.kindAt (vectorAddress 21) = .absent ∧ readable v (vectorAddress 3)) ∧
    (z.kindAt (vectorAddress 21) = .absent ∧ z.kindAt (vectorAddress 3) = .absent ∧ 3 ∈ exceptionNumbers) ∧
    (returnsBy (.bx 14 sbBranch) p 0xFFFFFFF9 p ∧ returnsBy (.bx 14 sbBranch) o 0xFFFFFFF9 o) ∧
    (p.stacksAligned ∧ returnAgrees p p.lr ∧ p.deactivateCurrent.preempting = none ∧
      (∀ j < 7, readable p (nth (frameOf p p.lr) j)) ∧ unreadable p (nth (frameOf p p.lr) 7)) ∧
    (o.stacksAligned ∧ returnAgrees o o.lr ∧ o.deactivateCurrent.preempting = none ∧
      (∀ j < 4, readable o (nth (frameOf o o.lr) j)) ∧ unreadable o (nth (frameOf o o.lr) 4)) ∧
    (e.env.resetInEntry = none ∧ e.stacksAligned ∧
      (∀ j < 1, writable e (nth ((e.sp - 32) &&& 0xFFFFFFFB#32) j)) ∧
      unwritable e (nth ((e.sp - 32) &&& 0xFFFFFFFB#32) 1)) := by
  refine ⟨by decide, by decide, ⟨returnsBy_bx _ (by decide) (by decide), returnsBy_bx _ (by decide) (by decide)⟩,
    by decide, by decide, by decide⟩

theorem witness_PreemptionIsStrictAndMasked :
    let s := irq5 start
    let h := { start with primask := true, nvic := { start.nvic with pending := setBit 0 3 } }
    (s.nextEnv.env.reset = false ∧ s.run = .running ∧ s.nextEnv.agents.preempting = some 21) ∧
    s.preempting = some 21 ∧ h.preempting = some 3 := by decide

theorem witness_TimerPeriodIsReloadPlusOne :
    let t : State := { start with sysTick := ⟨true, true, true, false, 1, 0⟩ }
    (t.sysTickClocked = true ∧ t.sysTick.current = 0 ∧ 1 ≤ t.sysTick.reload.toNat) ∧
    start.sysTick.enable = false ∧ (start.sysTick.clkSource = false ∧ start.platform.refClock = false) ∧
    (start.sysTick.reload = 0 ∧ start.sysTick.current = 0) := by decide

/-- The indices of SamplingLatchesLines and InterruptRegistersReadBack at the ends of their ranges, and levels that
rise. -/
theorem witness_Ranges :
    0 < 32 ∧ 31 < 32 ∧ 15 < 16 ∧ 3 < 4 ∧ (0 : BitVec 32).getLsbD 31 = false ∧
    (0x80000000 : BitVec 32).getLsbD 31 = true := by decide

theorem witness_PendingBitsFollowIcsrWrites :
    (0x10000000 : Word).getLsbD 31 = false ∧ (0x10000000 : Word).getLsbD 28 = true ∧
    (0x10000000 : Word).getLsbD 27 = false ∧ (0x0A000000 : Word).getLsbD 27 = true ∧
    (0x0A000000 : Word).getLsbD 25 = true ∧ (0x04000000 : Word).getLsbD 26 = true ∧
    (0x0A000000 : Word).getLsbD 31 = false ∧ (0x18000000 : Word).getLsbD 31 = false ∧
    (0x18000000 : Word).getLsbD 28 = true ∧ (0x18000000 : Word).getLsbD 27 = true ∧
    (0x06000000 : Word).getLsbD 26 = true ∧ (0x06000000 : Word).getLsbD 25 = true := by decide

theorem witness_SpecialRegisterMoves :
    (14 : Reg) ≠ 13 ∧ (14 : Reg) ≠ 15 ∧ (20 : BitVec 8) ∈ sysmNames ∧ (0 : BitVec 8) ∈ sysmNames ∧ start.ipsr = 0 ∧
    handler5.ipsr ≠ 0 := by decide

theorem witness_MaskHintAndBarrierInstructions : 5 ≤ (5 : BitVec 4).toNat ∧ 5 ≤ (15 : BitVec 4).toNat := by decide

theorem witness_WaitsCompleteOrSleep :
    let e := { start with event := true }
    let w := { start with env := { quietEnv with wake := true } }
    let m := { irq5 start with primask := true }
    start.platform.wfeMode = .nondeterministic ∧
    { start with platform := { start.platform with wfeMode := .refuse } }.platform.wfeMode = .refuse ∧
    e.event = true ∧ (w.event = false ∧ w.env.wake = true) ∧ (start.event = false ∧ start.env.wake = false) ∧
    m.wakesMasked = true ∧ (start.wakesMasked = false ∧ start.env.wake = false) := by decide

theorem witness_SleepEndsAsTheRulesSay :
    let s := fun w => { start with run := .sleeping w }
    let i := { irq5 start with run := .sleeping .wfi }
    let m := { irq5 start with run := .sleeping .wfi, primask := true }
    let e := { s .wfe with event := true }
    let k := { s .wfe with future := [{ quietEnv with wake := true }] }
    (i.nextEnv.env.reset = false ∧ i.nextEnv.agents.preempting = some 21) ∧
    (m.nextEnv.agents.preempting = none ∧ m.nextEnv.agents.wakesMasked = true) ∧
    ((s .wfi).nextEnv.agents.preempting = none ∧ (s .wfi).nextEnv.agents.wakesMasked = false ∧
      (s .wfi).nextEnv.agents.env.wake = false) ∧
    (e.nextEnv.agents.preempting = none ∧ e.nextEnv.agents.event = true) ∧
    (k.nextEnv.env.reset = false ∧ k.nextEnv.agents.preempting = none ∧ k.nextEnv.agents.event = false ∧
      k.nextEnv.agents.env.wake = true) ∧
    ((s .wfe).nextEnv.agents.event = false ∧ (s .wfe).nextEnv.agents.env.wake = false) := by decide

theorem witness_ReleasedResetBoots :
    let s := { start with run := .inReset }
    s.run = .inReset ∧ s.nextEnv.env.reset = false ∧ readable s 0 ∧ readable s 4 := by decide

theorem witness_RequestedResetIsAnswered :
    (0x05FA0004 : Word).toNat / 2 ^ 16 = 0x05FA ∧ (0x05FA0004 : Word).getLsbD 1 = false ∧
    (0x05FA0004 : Word).getLsbD 2 = true ∧ (0x05FB0004 : Word).toNat / 2 ^ 16 ≠ 0x05FA ∧
    { start with resetReq := true }.resetReq = true ∧ start.future = [] := by decide

theorem witness_LockupAndResetExecuteNothing :
    { start with run := .lockup }.run = .lockup ∧
    { start with future := [{ quietEnv with reset := true }] }.nextEnv.env.reset = true := by decide

/-- For the statements about every step: a running state of the invariant that steps. -/
theorem witness_StepKeepsTheInvariant :
    start.Inv ∧ start.memoryCanonical ∧ start.stacksAligned ∧ start.pcAligned ∧
    ∃ t, step (code 0x100 [0x00, 0xBF]) = .next t ∧ (t.pc == 0x102) = true :=
  ⟨start_inv, by decide, by decide, by decide, next_of_match (by decide)⟩

theorem witness_StepKeepsTheInvariant_step : (code 0x100 [0x00, 0xBF]).Inv :=
  ⟨by decide, by decide, by decide, by decide, by decide, by decide⟩

theorem witness_OnlyCpsAndMsrChangePrimask :
    ∃ t, exec (.cpsid sbCps) start = .next t ∧ (t.primask != start.primask) = true := next_of_match (by decide)

end Sys2Proof.Tests
end

section
/-! PROOF. Every memory access leaves the core alone, whether it is done or faults. Laws/Bus.lean says it of an access
that is done; a run of accesses that faults in its middle leaves the state of the accesses before it, and so does a
fetch (20_memory.md R108, 30_encoding.md R141). -/

namespace Sys2Proof.Machine

variable {α β : Type} {s t : State}

/-- Whatever state the access answers, done or faulted, agrees with s on the core. -/
def Access.LeavesCore (s : State) : Access α → Prop
  | .ok _ t => SameCore s t
  | .abort _ t => SameCore s t
  | .refused _ => True

theorem Access.LeavesCore.trans {m : Access α} (hs : SameCore s t) (hm : m.LeavesCore t) : m.LeavesCore s := by
  cases m with
  | ok a u => exact SameCore.trans hs hm
  | abort c u => exact SameCore.trans hs hm
  | refused r => trivial

theorem Access.LeavesCore.bind {m : Access α} {k : α → State → Access β} (hm : m.LeavesCore s)
    (hk : ∀ a u, (k a u).LeavesCore u) : (m.bind k).LeavesCore s := by
  cases m with
  | ok a u => exact (hk a u).trans hm
  | abort c u => exact hm
  | refused r => trivial

theorem Access.LeavesCore.withCause {m : Access α} (hm : m.LeavesCore s) (c : FaultCause) :
    (m.withCause c).LeavesCore s := by
  cases m <;> exact hm

theorem memRead_leavesCore (n : Nat) (addr : Word) (s : State) : (memRead n addr s).LeavesCore s := by
  cases h : memRead n addr s with
  | ok v t => exact (memRead_sameCore h).1
  | abort c t =>
    obtain ⟨rfl, -⟩ := memRead_abort h
    exact SameCore.refl t
  | refused r => trivial

theorem memWrite_leavesCore (n : Nat) (addr v : Word) (s : State) : (memWrite n addr v s).LeavesCore s := by
  cases h : memWrite n addr v s with
  | ok _ t => exact memWrite_sameCore h
  | abort c t =>
    obtain ⟨rfl, -⟩ := memWrite_abort h
    exact SameCore.refl t
  | refused r => trivial

theorem loadWords_leavesCore (n : Nat) (addr : Word) (s : State) : (loadWords n addr s).LeavesCore s := by
  induction n generalizing addr s with
  | zero => exact SameCore.refl s
  | succ n ih =>
    exact (memRead_leavesCore 4 addr s).bind fun v s1 => (ih (addr + 4) s1).bind fun vs s2 => SameCore.refl s2

theorem storeWords_leavesCore (ws : List Word) (addr : Word) (s : State) : (storeWords ws addr s).LeavesCore s := by
  induction ws generalizing addr s with
  | nil => exact SameCore.refl s
  | cons v vs ih => exact (memWrite_leavesCore 4 addr v s).bind fun _ s1 => ih (addr + 4) s1

theorem fetchHalf_leavesCore (addr : Word) (s : State) : (fetchHalf addr s).LeavesCore s := by
  unfold fetchHalf
  split
  · exact SameCore.refl s
  · exact ((memRead_leavesCore 2 addr s).withCause _).bind fun v s1 => SameCore.refl s1

theorem fetch_decoded_leavesCore (d : Except DecodeError Instr) (s : State) : (fetch.decoded d s).LeavesCore s := by
  cases d <;> exact SameCore.refl s

/-- A fetch, of one halfword or two, leaves the core alone. -/
theorem fetch_leavesCore (s : State) : (fetch s).LeavesCore s := by
  unfold fetch
  split
  · refine (fetchHalf_leavesCore s.pc s).bind fun hw1 s1 => ?_
    split
    · exact (fetchHalf_leavesCore (s.pc + 2) s1).bind fun hw2 s2 => fetch_decoded_leavesCore _ s2
    · exact fetch_decoded_leavesCore _ s1
  · exact SameCore.refl s

end Sys2Proof.Machine
end

section
/-! PROOF. Every step keeps both stack pointers word-aligned and the PC halfword-aligned (10_state.md R23, R25). The
idea: a stack pointer is only ever written through wordAligned; the PC is written through halfAligned, moved on by 2
or 4 bytes, or taken from a frame whose return address was checked to be even; everything else leaves all three. -/

namespace Sys2Proof.Machine

/-- Both stack pointers and the PC are aligned. -/
abbrev State.aligned (s : State) : Prop := s.stacksAligned ∧ s.pcAligned

variable {α : Type} {s t : State} {n : Nat} {addr v : Word}

/-! ### The updates -/

theorem SameCore.aligned (h : SameCore s t) (ha : s.aligned) : t.aligned := by
  simpa only [State.aligned, State.stacksAligned, State.pcAligned, h.msp, h.psp, h.pc] using ha

/-- Moving on by an even number of bytes. -/
theorem State.aligned.advance (ha : s.aligned) {k : Nat} (hk : k % 2 = 0) : (s.advance k).aligned := by
  obtain ⟨hsp, hpc⟩ := ha
  refine ⟨hsp, ?_⟩
  rw [State.pcAligned] at hpc ⊢
  rw [State.advance_pc, BitVec.toNat_add, BitVec.toNat_ofNat]
  omega

theorem State.aligned.setSp (ha : s.aligned) (v : Word) : (s.setSp v).aligned := by
  obtain ⟨⟨hmsp, hpsp⟩, hpc⟩ := ha
  have hv := wordAligned_mod v
  refine ⟨?_, hpc⟩
  by_cases h : s.usesPsp <;> simp [State.stacksAligned, h, hv, hmsp, hpsp]

theorem State.aligned.setX (ha : s.aligned) (n : Reg) (v : Word) : (s.setX n v).aligned := by
  obtain ⟨⟨hmsp, hpsp⟩, hpc⟩ := ha
  have hv := wordAligned_mod v
  refine ⟨⟨?_, ?_⟩, hpc⟩
  · rw [State.setX_msp]; split <;> assumption
  · rw [State.setX_psp]; split <;> assumption

theorem State.aligned.setListed (ha : s.aligned) (ns : List LowReg) (vs : List Word) :
    (s.setListed ns vs).aligned := by
  induction ns generalizing s vs with
  | nil => exact ha
  | cons n ns ih =>
    cases vs with
    | nil => exact ha
    | cons v vs => exact ih (s := s.setLo n v) ha vs

theorem State.aligned.branchTo (ha : s.aligned) (v : Word) : (s.branchTo v).aligned := ⟨ha.1, halfAligned_mod v⟩

theorem State.aligned.interwork (ha : s.aligned) (v : Word) : (s.interwork v).aligned := ⟨ha.1, halfAligned_mod v⟩

theorem State.aligned.toVector (ha : s.aligned) (v : Word) : (s.toVector v).aligned := ⟨ha.1, halfAligned_mod v⟩

/-- A word whose bit 0 is clear is even. -/
theorem toNat_even_of_getLsbD_zero (h : v.getLsbD 0 = false) : v.toNat % 2 = 0 := by
  rw [BitVec.getLsbD, Nat.testBit_zero, decide_eq_false_iff_not] at h
  omega

theorem State.restore_msp (s : State) (th p : Bool) (ws : List Word) (psr : Word) :
    (s.restore th p ws psr).msp = if p then s.msp else wordAligned ((s.msp + 32) ||| bitWord (psr.getLsbD 9) 2) := by
  dsimp only [State.restore]

theorem State.restore_psp (s : State) (th p : Bool) (ws : List Word) (psr : Word) :
    (s.restore th p ws psr).psp = if p then wordAligned ((s.psp + 32) ||| bitWord (psr.getLsbD 9) 2) else s.psp := by
  dsimp only [State.restore]

/-- A restored frame is aligned if its return address is even. -/
theorem State.aligned.restore (ha : s.aligned) (toThread usePsp : Bool) {ws : List Word} (psr : Word)
    (hpc : (ws.getD 6 0).getLsbD 0 = false) : (s.restore toThread usePsp ws psr).aligned := by
  obtain ⟨⟨hmsp, hpsp⟩, -⟩ := ha
  refine ⟨⟨?_, ?_⟩, toNat_even_of_getLsbD_zero hpc⟩
  · rw [State.restore_msp]; split
    · exact hmsp
    · exact wordAligned_mod _
  · rw [State.restore_psp]; split
    · exact wordAligned_mod _
    · exact hpsp

theorem State.aligned.specWrite (ha : s.aligned) (v : Word) (reg : SpecReg) : (s.specWrite v reg).aligned := by
  obtain ⟨⟨hmsp, hpsp⟩, hpc⟩ := ha
  cases reg with
  | msp => exact ⟨⟨wordAligned_mod v, hpsp⟩, hpc⟩
  | psp => exact ⟨⟨hmsp, wordAligned_mod v⟩, hpc⟩
  | apsr | iapsr | eapsr | psr | ipsr | epsr | iepsr | primask | control => exact ⟨⟨hmsp, hpsp⟩, hpc⟩

theorem State.aligned.interrupted (ha : s.aligned) : s.interrupted.aligned := (interrupted_sameCore s).1.aligned ha

theorem State.resetCore_psp (s : State) : s.resetCore.psp = wordAligned (Config.freeWord (s.free + 13)) := by
  dsimp only [State.resetCore]

/-- Reset aligns PSP; the two words of the vector table align MSP and the PC (70_reset_and_hazards.md R480). -/
theorem boot_aligned (h : SameCore s.resetCore t) (w0 w1 : Word) : (t.boot w0 w1).aligned := by
  refine ⟨⟨wordAligned_mod w0, ?_⟩, halfAligned_mod w1⟩
  rw [State.boot_psp, h.psp, State.resetCore_psp]
  exact wordAligned_mod _

/-! ### Taking an exception and returning from one -/

theorem startDerived_aligned (ha : s.aligned) (h : startDerived n s = .next t) : t.aligned := by
  obtain ⟨w, s1, hm, rfl⟩ | ⟨c, s1, hm, rfl⟩ := startDerived_next h
  · exact ((memRead_sameCore hm).1.aligned ha).toVector w
  · obtain ⟨rfl, -⟩ := memRead_abort hm
    exact ha

theorem startHandler_aligned {link : Word} (ha : s.aligned) (h : startHandler n link s = .next t) : t.aligned := by
  obtain ⟨w, s1, hm, rfl⟩ | ⟨c, s1, hm, ⟨-, rfl⟩ | ⟨-, h⟩⟩ := startHandler_next h
  · exact ((memRead_sameCore hm).1.aligned ha).toVector w
  · obtain ⟨rfl, -⟩ := memRead_abort hm
    exact ha
  · obtain ⟨rfl, -⟩ := memRead_abort hm
    exact startDerived_aligned (s := s.enterMode n link) ha h

theorem takeException_aligned {ra : Word} (ha : s.aligned) (h : takeException n ra s = .next t) : t.aligned := by
  obtain h | ⟨k, -, h⟩ := takeException_next h
  · obtain ⟨s1, hst, h⟩ := enterException_next h
    exact startHandler_aligned (((storeWords_sameCore hst).aligned ha).setSp _) h
  · obtain ⟨s1, hst, rfl⟩ := cutEntry_next h
    exact (storeWords_sameCore hst).aligned ha

theorem raiseHardFault_aligned (c : FaultCause) (ha : s.aligned) (h : raiseHardFault c s = .next t) : t.aligned := by
  obtain ⟨-, rfl⟩ | ⟨-, h⟩ := raiseHardFault_next h
  · exact ha
  · exact takeException_aligned (s := s.pend excHardFault) ha h

theorem unstack_aligned (ha : s.aligned) (h : unstack addr s = .next t) : t.aligned := by
  obtain ⟨ws, s1, hl, h⟩ := unstack_next h
  have ha1 := (loadWords_sameCore hl).2.1.aligned ha
  obtain ⟨psr, s2, hr, h⟩ | ⟨c, s2, hr, -, rfl⟩ := h
  · obtain ⟨hpc, -, -, rfl⟩ := unstackFrame_next h
    exact ((memRead_sameCore hr).1.aligned ha1).restore _ _ psr hpc
  · obtain ⟨rfl, -⟩ := memRead_abort hr
    exact ha1

theorem exceptionReturn_aligned (ha : s.aligned) (h : exceptionReturn addr s = .next t) : t.aligned := by
  obtain ⟨m, -, h⟩ | ⟨-, h⟩ := returnSequence_next (exceptionReturn_next h).2
  · exact startHandler_aligned (s := s.deactivateCurrent) ha h
  · exact unstack_aligned (s := s.deactivateCurrent) ha h

theorem bxWritePc_aligned (ha : s.aligned) (h : bxWritePc addr s = .next t) : t.aligned := by
  obtain ⟨-, -, h⟩ | ⟨-, rfl⟩ := bxWritePc_next h
  · exact exceptionReturn_aligned ha h
  · exact ha.interwork addr

/-! ### Instructions that access memory -/

/-- What goes on from an access starts from aligned pointers, and so does the fault the access takes. -/
theorem finish_aligned {m : Access α} {k : α → State → Result} (hm : m.LeavesCore s) (ha : s.aligned)
    (hk : ∀ a u, u.aligned → k a u = .next t → t.aligned) (h : m.finish k = .next t) : t.aligned := by
  obtain ⟨a, s1, rfl, h⟩ | ⟨c, s1, rfl, h⟩ := finish_next h
  · exact hk a s1 (SameCore.aligned hm ha) h
  · exact raiseHardFault_aligned c (SameCore.aligned hm ha) h

theorem loadLow_aligned {ext : Word → Word} {rt : LowReg} (ha : s.aligned)
    (h : loadLow n ext rt addr s = .next t) : t.aligned := by
  refine finish_aligned (memRead_leavesCore n addr s) ha (fun v u hu h => ?_) h
  cases h
  exact State.aligned.advance (s := u.setLo rt (ext v)) hu rfl

theorem storeLow_aligned {rt : LowReg} (ha : s.aligned) (h : storeLow n rt addr s = .next t) : t.aligned := by
  refine finish_aligned (memWrite_leavesCore n addr (s.lo rt) s) ha (fun _ u hu h => ?_) h
  cases h
  exact hu.advance rfl

/-- A multiple transfer, whole or cut short. -/
theorem transfer_aligned {accesses : Nat → State → Access α} {done : α → State → Result}
    (hacc : ∀ k u, (accesses k u).LeavesCore u) (hdone : ∀ a u, u.aligned → done a u = .next t → t.aligned)
    (ha : s.aligned) (h : transfer n accesses done s = .next t) : t.aligned := by
  obtain ⟨-, h⟩ | ⟨k, -, h⟩ | ⟨k, -, h⟩ := transfer_next h
  · exact finish_aligned (hacc n _) ha.interrupted hdone h
  · refine finish_aligned (hacc k _) ha.interrupted (fun a u hu h => ?_) h
    cases h
    exact hu
  · refine finish_aligned (hacc k s) ha (fun a u hu h => ?_) h
    cases h
    exact hu

theorem loadTransfer_aligned {done : List Word → State → Result}
    (hdone : ∀ vs u, u.aligned → done vs u = .next t → t.aligned) (ha : s.aligned)
    (h : loadTransfer n addr done s = .next t) : t.aligned :=
  transfer_aligned (fun k u => loadWords_leavesCore k addr u) hdone ha h

theorem storeTransfer_aligned {words : List Word} {done : State → Result}
    (hdone : ∀ u, u.aligned → done u = .next t → t.aligned) (ha : s.aligned)
    (h : storeTransfer words addr done s = .next t) : t.aligned :=
  transfer_aligned (fun k u => storeWords_leavesCore (words.take k) addr u) (fun _ u => hdone u) ha h

/-- An operation that is refused unless a condition holds: where it answers a next state, the rest of it did. -/
theorem next_of_guard {p : Prop} [Decidable p] {r : Refusal} {x : Result}
    (h : (if p then .refused r else x) = .next t) : x = .next t := by
  split at h
  · cases h
  · exact h

theorem execLdm_aligned {rn : LowReg} {list : RegList} (ha : s.aligned) (h : execLdm rn list s = .next t) :
    t.aligned := by
  refine loadTransfer_aligned (fun vs u hu h => ?_) ha (next_of_guard h)
  have hl := hu.setListed (listed list) vs
  dsimp only at h
  split at h <;> cases h
  · exact hl.advance rfl
  · exact State.aligned.advance (s := State.setLo _ _ _) hl rfl

theorem execStm_aligned {rn : LowReg} {list : RegList} (ha : s.aligned) (h : execStm rn list s = .next t) :
    t.aligned := by
  refine storeTransfer_aligned (fun u hu h => ?_) ha (next_of_guard (next_of_guard h))
  cases h
  exact State.aligned.advance (s := u.setLo _ _) hu rfl

theorem execPush_aligned {m : Bool} {list : RegList} (ha : s.aligned) (h : execPush m list s = .next t) :
    t.aligned := by
  refine storeTransfer_aligned (fun u hu h => ?_) ha (next_of_guard h)
  cases h
  exact (hu.setSp _).advance rfl

theorem execPop_aligned {p : Bool} {list : RegList} (ha : s.aligned) (h : execPop p list s = .next t) :
    t.aligned := by
  refine loadTransfer_aligned (fun vs u hu h => ?_) ha (next_of_guard h)
  have hs := (hu.setListed (listed list) vs).setSp (s.sp + byteCount (popCount p list))
  dsimp only at h
  split at h
  · exact bxWritePc_aligned hs h
  · cases h
    exact hs.advance rfl

/-! ### Instructions that write a register, branch, or act on the system -/

/-- Where an instruction's answer is a state moved on by an even number of bytes. -/
theorem aligned_of_advance {u : State} {k : Nat} (h : (.next (u.advance k) : Result) = .next t) (hu : u.aligned)
    (hk : k % 2 = 0) : t.aligned := by
  cases h
  exact hu.advance hk

/-- Where an instruction's answer is a state whose PC has been written. -/
theorem aligned_of_branchTo {u : State} (h : (.next (u.branchTo addr) : Result) = .next t) (hu : u.aligned) :
    t.aligned := by
  cases h
  exact hu.branchTo addr

theorem execAddHigh_aligned {rdn rm : Reg} (ha : s.aligned) (h : execAddHigh rdn rm s = .next t) : t.aligned := by
  have h := next_of_guard h
  split at h
  · exact aligned_of_branchTo h ha
  · exact aligned_of_advance h (ha.setX _ _) rfl

theorem execMovHigh_aligned {rd rm : Reg} (ha : s.aligned) (h : execMovHigh rd rm s = .next t) : t.aligned := by
  unfold execMovHigh at h
  split at h
  · exact aligned_of_branchTo h ha
  · exact aligned_of_advance h (ha.setX _ _) rfl

theorem execBCond_aligned {cond : Cond} {imm8 : BitVec 8} (ha : s.aligned)
    (h : execBCond cond imm8 s = .next t) : t.aligned := by
  unfold execBCond at h
  split at h
  · exact aligned_of_branchTo h ha
  · exact aligned_of_advance h ha rfl

theorem execBlx_aligned {rm : Reg} {sb : BitVec 3} (ha : s.aligned) (h : execBlx rm sb s = .next t) :
    t.aligned := by
  -- the third guard is that of blxWritePc
  have h : Host.Outcome.next _ = .next t := next_of_guard (next_of_guard (next_of_guard h))
  cases h
  exact State.aligned.interwork (s := s.setLr _) ha _

theorem execMrs_aligned {rd : Reg} {sysm : BitVec 8} {sb : BitVec 6} (ha : s.aligned)
    (h : execMrs rd sysm sb s = .next t) : t.aligned := by
  have h := next_of_guard (next_of_guard h)
  split at h
  · cases h
  · exact aligned_of_advance h (State.aligned.setX (s := s.drawn 1) ha _ _) rfl

theorem execMsr_aligned {rn : Reg} {sysm : BitVec 8} {sb : BitVec 6} (ha : s.aligned)
    (h : execMsr rn sysm sb s = .next t) : t.aligned := by
  have h := next_of_guard (next_of_guard h)
  split at h
  · cases h
  · exact aligned_of_advance h (ha.specWrite _ _) rfl

theorem execWfe_aligned (ha : s.aligned) (h : execWfe s = .next t) : t.aligned := by
  unfold execWfe at h
  split at h
  · cases h
  · split at h
    · exact aligned_of_advance h ha rfl
    · split at h
      · exact aligned_of_advance h ha rfl
      · exact aligned_of_advance h ha rfl

theorem execWfi_aligned (ha : s.aligned) (h : execWfi s = .next t) : t.aligned := by
  unfold execWfi at h
  split at h
  · exact aligned_of_advance h ha rfl
  · exact aligned_of_advance h ha rfl

theorem execSvc_aligned (imm8 : BitVec 8) (ha : s.aligned) (h : execSvc imm8 s = .next t) : t.aligned := by
  have ha1 : ((s.pend excSvCall).advance 2).interrupted.aligned :=
    (State.aligned.advance (s := s.pend excSvCall) ha rfl).interrupted
  unfold execSvc at h
  split at h
  · exact raiseHardFault_aligned .svcPriority ha h
  · dsimp only at h
    split at h
    · exact takeException_aligned ha1 h
    · cases h
      exact ha1

/-- Every instruction keeps the alignment. -/
theorem exec_aligned {i : Instr} (ha : s.aligned) (h : exec i s = .next t) : t.aligned := by
  cases i with
  -- a result or the flags are written, and the PC moves on
  | lslsImm | lsrsImm | asrsImm | addsReg | subsReg | addsImm3 | subsImm3 | movsImm | cmpImm | addsImm8 | subsImm8
  | ands | eors | lslsReg | lsrsReg | asrsReg | adcs | sbcs | rorsReg | tst | rsbs | cmpReg | cmn | orrs | muls | bics
  | mvns | adr | addSpRd | sxth | sxtb | uxth | uxtb | rev | rev16 | revsh
  | nop | yieldHint | sev | reservedHint => exact aligned_of_advance h ha rfl
  | cmpHigh | cpsie | cpsid | dsb | dmb | isb => exact aligned_of_advance (next_of_guard h) ha rfl
  | addSpImm | subSpImm => exact aligned_of_advance h (ha.setSp _) rfl
  | addHigh => exact execAddHigh_aligned ha h
  | movHigh => exact execMovHigh_aligned ha h
  -- branches
  | b => exact aligned_of_branchTo h ha
  | bl => exact aligned_of_branchTo h ha
  | bCond => exact execBCond_aligned ha h
  | bx => exact bxWritePc_aligned ha (next_of_guard (next_of_guard h))
  | blx => exact execBlx_aligned ha h
  -- memory
  | ldrLit | ldrsbReg | ldrReg | ldrhReg | ldrbReg | ldrshReg | ldrImm | ldrbImm | ldrhImm | ldrSp =>
    exact loadLow_aligned ha h
  | strReg | strhReg | strbReg | strImm | strbImm | strhImm | strSp => exact storeLow_aligned ha h
  | ldm => exact execLdm_aligned ha h
  | stm => exact execStm_aligned ha h
  | push => exact execPush_aligned ha h
  | pop => exact execPop_aligned ha h
  -- the system
  | mrs => exact execMrs_aligned ha h
  | msr => exact execMsr_aligned ha h
  | wfe => exact execWfe_aligned ha h
  | wfi => exact execWfi_aligned ha h
  | svc imm8 => exact execSvc_aligned imm8 ha h
  | udf | udfW => exact raiseHardFault_aligned .undefinedInstruction ha h
  | bkpt => exact raiseHardFault_aligned .bkptNoDebugger ha (next_of_guard h)

/-! ### The step -/

theorem sleepStep_aligned {w : WakeSet} (ha : s.aligned) (h : sleepStep w s = .next t) : t.aligned := by
  unfold sleepStep at h
  split at h
  · exact takeException_aligned ha h
  · split at h
    · split at h <;> cases h <;> exact ha
    · split at h
      · cases h
        exact ha
      · split at h <;> cases h <;> exact ha

theorem act_aligned (ha : s.aligned) (h : act s = .next t) : t.aligned := by
  unfold act at h
  split at h
  · split at h
    · exact takeException_aligned ha h
    · exact finish_aligned (fetch_leavesCore s) ha (fun _ _ hu h => exec_aligned hu h) h
  · exact sleepStep_aligned ha h
  · cases h
    exact ha
  · cases h
    exact ha

theorem resetSequence_aligned (h : resetSequence s = .next t) : t.aligned := by
  unfold resetSequence at h
  split at h
  · rename_i ws s1 hl
    cases h
    exact boot_aligned (loadWords_sameCore hl).2.1 _ _
  · cases h
  · cases h

theorem State.aligned.nextEnv (ha : s.aligned) : s.nextEnv.aligned := by
  obtain ⟨-, hpc, -, -, -, hmsp, hpsp, -, -⟩ := nextEnv_fields s
  simpa only [State.aligned, State.stacksAligned, State.pcAligned, hpc, hmsp, hpsp] using ha

/-- A step is a reset that holds the processor, a boot, or what the processor does once the agents have acted. -/
theorem step_aligned (ha : s.aligned) (h : step s = .next t) : t.aligned := by
  unfold step at h
  dsimp only at h
  split at h
  · cases h
    exact ha.nextEnv
  · split at h
    · exact resetSequence_aligned h
    · exact act_aligned ((agents_sameCore _).1.aligned ha.nextEnv) h

/-- Settles O58, from the alignment that every operation of a step keeps. -/
theorem stepKeepsAlignment : Obligations.StepKeepsAlignment :=
  fun _ _ hsp hpc h => step_aligned ⟨hsp, hpc⟩ h

end Sys2Proof.Machine
end

section
/-! PROOF. The shifts and the rotate by their length (40_instruction_conventions.md R185 to R188). An equation per range
of lengths, with n the number of places: R185 and R186 divide, R187 multiplies, and the rotate of R188 is the library's
rotateRight with the top bit of the result as its carry, whatever the length, if only it is not 0. -/

namespace Sys2Proof.Machine

variable {v : Word} {n : Nat} {cin : Bool}

/-! ### One equation per range of lengths -/

@[simp] theorem asrC_zero : asrC v 0 cin = ⟨v, cin⟩ := rfl

@[simp] theorem lsrC_zero : lsrC v 0 cin = ⟨v, cin⟩ := rfl

@[simp] theorem lslC_zero : lslC v 0 cin = ⟨v, cin⟩ := rfl

@[simp] theorem rorC_zero : rorC v 0 cin = ⟨v, cin⟩ := rfl

theorem asrC_of_inside (h1 : 1 ≤ n) (h31 : n ≤ 31) : asrC v n cin = ⟨v.sshiftRight n, v.getLsbD (n - 1)⟩ := by
  rw [asrC, if_neg (Nat.ne_of_gt h1), if_pos h31]

theorem lsrC_of_inside (h1 : 1 ≤ n) (h31 : n ≤ 31) : lsrC v n cin = ⟨v >>> n, v.getLsbD (n - 1)⟩ := by
  rw [lsrC, if_neg (Nat.ne_of_gt h1), if_pos h31]

theorem lslC_of_inside (h1 : 1 ≤ n) (h31 : n ≤ 31) : lslC v n cin = ⟨v <<< n, v.getLsbD (32 - n)⟩ := by
  rw [lslC, if_neg (Nat.ne_of_gt h1), if_pos h31]

@[simp] theorem lsrC_width : lsrC v 32 cin = ⟨0, v.getLsbD 31⟩ := rfl

@[simp] theorem lslC_width : lslC v 32 cin = ⟨0, v.getLsbD 0⟩ := rfl

/-- From the word's length on, an arithmetic shift leaves nothing but the sign, in every bit. -/
theorem asrC_of_width_le (h : 32 ≤ n) :
    asrC v n cin = ⟨if v.getLsbD 31 then 0xFFFFFFFF#32 else 0#32, v.getLsbD 31⟩ := by
  rw [asrC, if_neg (by omega), if_neg (by omega)]

theorem lsrC_of_width_lt (h : 33 ≤ n) : lsrC v n cin = ⟨0, false⟩ := by
  rw [lsrC, if_neg (by omega), if_neg (by omega), if_neg (by omega)]

theorem lslC_of_width_lt (h : 33 ≤ n) : lslC v n cin = ⟨0, false⟩ := by
  rw [lslC, if_neg (by omega), if_neg (by omega), if_neg (by omega)]

/-! ### Shifts as division and multiplication -/

/-- The top bit is the sign of the word. -/
theorem getLsbD_31_eq_sign (v : Word) : v.getLsbD 31 = decide (v.toInt < 0) := by
  rw [← BitVec.msb_eq_toInt, BitVec.msb_eq_getLsbD_last]

theorem toInt_sshiftRight_eq_div (v : Word) (n : Nat) : (v.sshiftRight n).toInt = v.toInt / 2 ^ n := by
  rw [BitVec.toInt_sshiftRight, Int.shiftRight_eq_div_pow, Nat.cast_pow, Nat.cast_ofNat]

theorem toNat_ushiftRight_eq_div (v : Word) (n : Nat) : (v >>> n).toNat = v.toNat / 2 ^ n := by
  rw [BitVec.toNat_ushiftRight, Nat.shiftRight_eq_div_pow]

theorem toNat_shiftLeft_eq_mul (v : Word) (n : Nat) : (v <<< n).toNat = v.toNat * 2 ^ n % 2 ^ 32 := by
  rw [BitVec.toNat_shiftLeft, Nat.shiftLeft_eq]

/-! ### The rotate -/

/-- Bit i of a rotated word is the bit n places above it, counted round the word. -/
theorem getLsbD_rotateRight_eq (v : Word) (n : Nat) {i : Nat} (hi : i < 32) :
    (v.rotateRight n).getLsbD i = v.getLsbD ((i + n) % 32) := by
  rw [BitVec.getLsbD_rotateRight]
  by_cases hwrap : i < 32 - n % 32
  · rw [decide_eq_true hwrap, cond_true, show (i + n) % 32 = n % 32 + i by omega]
  · rw [decide_eq_false hwrap, cond_false, decide_eq_true hi, Bool.true_and,
      show (i + n) % 32 = i - (32 - n % 32) by omega]

/-- A rotate by a whole number of words moves nothing. -/
theorem rotateRight_of_mod_eq_zero (v : Word) (h : n % 32 = 0) : v.rotateRight n = v := by
  rw [← BitVec.rotateRight_mod_eq_rotateRight, h, BitVec.rotateRight_def]
  simp

/-- The last bit rotated out is the top bit of the result, for whole words and parts of a word alike. -/
theorem rorC_of_pos (h : 1 ≤ n) : rorC v n cin = ⟨v.rotateRight n, (v.rotateRight n).getLsbD 31⟩ := by
  rw [rorC, if_neg (Nat.ne_of_gt h)]
  split
  case isTrue hwhole => rw [rotateRight_of_mod_eq_zero v hwhole]
  case isFalse hpart =>
    rw [getLsbD_rotateRight_eq v n (by decide), BitVec.rotateRight_def,
      show (31 + n) % 32 = n % 32 - 1 by omega]

/-- A rotate takes its length round the word. -/
theorem rorC_sub_width (h : 33 ≤ n) : rorC v n cin = rorC v (n - 32) cin := by
  have hrotate : v.rotateRight n = v.rotateRight (n - 32) := by
    rw [← BitVec.rotateRight_mod_eq_rotateRight, Nat.mod_eq_sub_mod (by omega),
      BitVec.rotateRight_mod_eq_rotateRight]
  rw [rorC_of_pos (by omega), rorC_of_pos (by omega), hrotate]

/-! ### The statements -/

/-- Settles O11, range by range: inside the word both are divisions, past it only the sign or nothing is left. -/
theorem rightShiftFunctions : Obligations.RightShiftFunctions := by
  intro v n cin
  refine ⟨?zero, fun h1 h31 => ?inside, fun h => ?arithmeticPast, ?width, lsrC_of_width_lt⟩
  case zero =>
    rintro rfl
    exact ⟨asrC_zero, lsrC_zero⟩
  case inside =>
    rw [asrC_of_inside h1 h31, lsrC_of_inside h1 h31]
    exact ⟨toInt_sshiftRight_eq_div v n, rfl, toNat_ushiftRight_eq_div v n, rfl⟩
  case arithmeticPast => simp only [asrC_of_width_le h, getLsbD_31_eq_sign, decide_eq_true_eq]
  case width =>
    rintro rfl
    exact lsrC_width

/-- Settles O12: the left shift range by range as a multiplication, the rotate as rotateRight for every length but 0. -/
theorem leftShiftAndRotateFunctions : Obligations.LeftShiftAndRotateFunctions := by
  intro v n cin
  refine ⟨?zero, fun h1 h31 => ?inside, ?width, lslC_of_width_lt, fun h => ?rotate, rorC_sub_width⟩
  case zero =>
    rintro rfl
    exact ⟨lslC_zero, rorC_zero⟩
  case inside =>
    rw [lslC_of_inside h1 h31]
    exact ⟨toNat_shiftLeft_eq_mul v n, rfl⟩
  case width =>
    rintro rfl
    exact lslC_width
  case rotate =>
    rw [rorC_of_pos h]
    exact ⟨fun _ hi => getLsbD_rotateRight_eq v n hi, rfl⟩

end Sys2Proof.Machine
end

section
/-! PROOF. Runs of word accesses at aligned addresses of RAM, word by word (20_memory.md R104, R105, R108). The idea:
words at different places of an aligned run do not overlap, so that what a run has stored stands until its end, and a
run is the run of its first words followed by the run of the others. -/

namespace Sys2Proof.Machine

open Sys2Proof.Claims

variable {s t : State} {a v : Word} {ws : List Word} {n k : Nat}

/-! ### Word addresses -/

@[simp] theorem nth_zero (a : Word) : nth a 0 = a := by simp [nth]

theorem nth_add_four (a : Word) (k : Nat) : nth (a + 4) k = nth a (k + 1) := by
  rw [nth, nth, Nat.mul_succ, Nat.add_comm (4 * k), BitVec.ofNat_add, ← BitVec.add_assoc]
  rfl

theorem toNat_nth (a : Word) (k : Nat) : (nth a k).toNat = (a.toNat + 4 * k) % 2 ^ 32 := by
  rw [nth, BitVec.toNat_add, BitVec.toNat_ofNat, Nat.add_mod_mod]

theorem nth_aligned (ha : a.toNat % 4 = 0) (k : Nat) : (nth a k).toNat % 4 = 0 := by
  rw [toNat_nth]
  omega

theorem add_four_aligned (ha : a.toNat % 4 = 0) : (a + 4).toNat % 4 = 0 := nth_aligned ha 1

/-- Words at different places of an aligned run that does not meet itself share no byte. -/
theorem not_within_nth (ha : a.toNat % 4 = 0) {i j : Nat} (hne : i ≠ j) (hi : i < 2 ^ 30) (hj : j < 2 ^ 30) {b : Nat}
    (hb : within (nth a i) 4 b) : ¬ within (nth a j) 4 b := by
  simp only [within, toNat_nth] at hb ⊢
  omega

/-! ### One word -/

theorem toNat_append_byte {w : Nat} (x : BitVec w) (y : Byte) : (x ++ y).toNat = y.toNat + 256 * x.toNat := by
  rw [BitVec.toNat_append, ← Nat.shiftLeft_add_eq_or_of_lt y.isLt, Nat.shiftLeft_eq]
  omega

/-- A read of four bytes finds the word of memory there. -/
theorem stored_four (s : State) (a : Word) : s.stored 4 a = wordAt s a := by
  apply BitVec.eq_of_toNat_eq
  simp only [State.stored, wordAt, Memory.load, toNat_append_byte, BitVec.toNat_ofNat, Nat.add_assoc, Nat.reduceAdd]
  omega

/-- A word of memory depends on its four bytes only. -/
theorem wordAt_congr (h : ∀ b, within a 4 b → Memory.read t.mem b = Memory.read s.mem b) : wordAt t a = wordAt s a := by
  simp only [wordAt]
  rw [h _ ⟨by omega, by omega⟩, h _ ⟨by omega, by omega⟩, h _ ⟨by omega, by omega⟩, h _ ⟨by omega, by omega⟩]

theorem wordAt_of_mem (h : t.mem = s.mem) (a : Word) : wordAt t a = wordAt s a :=
  wordAt_congr fun _ _ => by rw [h]

theorem store_four_canonical (hs : s.memoryCanonical) (ha : a.toNat % 4 = 0) : (s.store 4 a v).memoryCanonical :=
  Memory.wf_store hs (by omega)

theorem wordAt_store_self (hs : s.memoryCanonical) (ha : a.toNat % 4 = 0) : wordAt (s.store 4 a v) a = v := by
  rw [← stored_four, State.stored, State.store_mem, Memory.load_store hs (by omega)]
  exact BitVec.eq_of_toNat_eq (by rw [BitVec.toNat_ofNat]; omega)

theorem read_store_of_not_within {b : Nat} (h : ¬ within a n b) :
    Memory.read (s.store n a v).mem b = Memory.read s.mem b :=
  Memory.read_store_outside (by omega)

theorem memRead_readable (ha : a.toNat % 4 = 0) (h : readable s a) : memRead 4 a s = .ok (wordAt s a) s := by
  obtain ⟨hp, hk | hk | hk⟩ := h <;> simp [memRead, ha, hp, hk, stored_four]

theorem memRead_unreadable (ha : a.toNat % 4 = 0) (h : unreadable s a) : memRead 4 a s = .abort .busError s := by
  simp [memRead, ha, h.1, h.2]

theorem memWrite_unwritable (ha : a.toNat % 4 = 0) (h : unwritable s a) :
    memWrite 4 a v s = .abort .busError s := by
  obtain ⟨hp, hk | hk⟩ := h <;> simp [memWrite, ha, hp, hk]

/-! ### A run of reads -/

theorem Access.ok_bind {α β : Type} (x : α) (s : State) (f : α → State → Access β) : (Access.ok x s).bind f = f x s :=
  rfl

theorem Access.abort_bind {α β : Type} (c : FaultCause) (s : State) (f : α → State → Access β) :
    (Access.abort c s).bind f = .abort c s := rfl

/-- Reads of stored bytes change nothing. -/
theorem loadWords_readable (ha : a.toNat % 4 = 0) (h : ∀ j < n, readable s (nth a j)) :
    ∃ ws, loadWords n a s = .ok ws s := by
  induction n generalizing a with
  | zero => exact ⟨[], rfl⟩
  | succ n ih =>
    obtain ⟨ws, hws⟩ := ih (add_four_aligned ha) fun j hj => by
      rw [nth_add_four]
      exact h (j + 1) (by omega)
    have h0 := memRead_readable ha (by simpa using h 0 (by omega))
    exact ⟨wordAt s a :: ws, by rw [loadWords, h0, Access.ok_bind, hws, Access.ok_bind]⟩

/-- A run of reads that meets its first bus error at word k has changed nothing. -/
theorem loadWords_unreadable (ha : a.toNat % 4 = 0) (hk : k < n) (h : ∀ j < k, readable s (nth a j))
    (hbad : unreadable s (nth a k)) : loadWords n a s = .abort .busError s := by
  induction k generalizing a n with
  | zero =>
    obtain ⟨m, rfl⟩ := Nat.exists_eq_add_of_lt hk
    rw [loadWords, memRead_unreadable ha (by simpa using hbad), Access.abort_bind]
  | succ k ih =>
    obtain ⟨m, rfl⟩ : ∃ m, n = m + 1 := ⟨n - 1, by omega⟩
    have h0 := memRead_readable ha (by simpa using h 0 (by omega))
    have hrest := ih (n := m) (add_four_aligned ha) (by omega)
      (fun j hj => by rw [nth_add_four]; exact h (j + 1) (by omega)) (by rwa [nth_add_four])
    rw [loadWords, h0, Access.ok_bind, hrest, Access.abort_bind]

/-! ### A run of writes -/

/-- The state t is s with the words stored from a on: no other field and no other byte is changed. -/
structure WordsStored (a : Word) (ws : List Word) (s t : State) : Prop where
  frame : t = { s with mem := t.mem }
  canonical : t.memoryCanonical
  word : ∀ k v, ws[k]? = some v → wordAt t (nth a k) = v
  outside : sameOutside s t a ws.length

theorem WordsStored.nil (hs : s.memoryCanonical) : WordsStored a [] s s :=
  ⟨rfl, hs, fun _ _ h => by simp at h, fun _ _ => rfl⟩

/-- The words after the first are stored on top of it, and leave it. -/
theorem WordsStored.cons (hs : s.memoryCanonical) (ha : a.toNat % 4 = 0) (hlen : ws.length < 2 ^ 30)
    (h : WordsStored (a + 4) ws (s.store 4 a v) t) : WordsStored a (v :: ws) s t := by
  refine ⟨?frame, h.canonical, ?word, ?outside⟩
  case frame =>
    rw [h.frame]
    rfl
  case word =>
    intro k w hw
    cases k with
    | zero =>
      obtain rfl : v = w := by simpa using hw
      have hfirst : wordAt t a = wordAt (s.store 4 a v) a := wordAt_congr fun b hb =>
        h.outside b fun j hj => by
          rw [nth_add_four]
          exact not_within_nth ha (i := 0) (by omega) (by omega) (by omega) (by simpa using hb)
      rw [nth_zero, hfirst, wordAt_store_self hs ha]
    | succ k =>
      rw [← nth_add_four]
      exact h.word k w (by simpa using hw)
  case outside =>
    intro b hb
    have hrest : ∀ j < ws.length, ¬ within (nth (a + 4) j) 4 b := fun j hj => by
      rw [nth_add_four]
      exact hb (j + 1) (by simpa using hj)
    rw [h.outside b hrest, read_store_of_not_within (by simpa using hb 0 (by simp))]

/-- A run of writes to RAM stores its words. -/
theorem storeWords_writable (hs : s.memoryCanonical) (ha : a.toNat % 4 = 0) (hlen : ws.length ≤ 2 ^ 30)
    (h : ∀ j < ws.length, writable s (nth a j)) : ∃ t, storeWords ws a s = .ok () t ∧ WordsStored a ws s t := by
  induction ws generalizing a s with
  | nil => exact ⟨s, rfl, WordsStored.nil hs⟩
  | cons v ws ih =>
    simp only [List.length_cons] at hlen h
    obtain ⟨hp, hk⟩ : writable s a := by simpa using h 0 (by omega)
    obtain ⟨t, ht, hst⟩ := ih (s := s.store 4 a v) (store_four_canonical hs ha) (add_four_aligned ha) (by omega)
      fun j hj => by
        rw [nth_add_four]
        exact h (j + 1) (by omega)
    exact ⟨t, by rw [storeWords, memWrite_ram ha hp hk, Access.ok_bind, ht], hst.cons hs ha (by omega)⟩

/-- A run of writes is the run of its first words, then the run of the others. -/
theorem storeWords_append (ws vs : List Word) (a : Word) (s : State) :
    storeWords (ws ++ vs) a s = (storeWords ws a s).bind fun _ t => storeWords vs (nth a ws.length) t := by
  induction ws generalizing a s with
  | nil => simp [storeWords, Access.bind]
  | cons w ws ih =>
    simp only [List.cons_append, storeWords, ih, nth_add_four, List.length_cons]
    cases memWrite 4 a w s <;> rfl

/-- A run of writes that meets its first bus error at word k has stored its first k words. -/
theorem storeWords_unwritable (hs : s.memoryCanonical) (ha : a.toNat % 4 = 0) (hlen : ws.length ≤ 2 ^ 30)
    (hk : k < ws.length) (h : ∀ j < k, writable s (nth a j)) (hbad : unwritable s (nth a k)) :
    ∃ t, storeWords ws a s = .abort .busError t ∧ WordsStored a (ws.take k) s t := by
  have htake : (ws.take k).length = k := by simp [hk.le]
  obtain ⟨t, ht, hst⟩ := storeWords_writable (ws := ws.take k) hs ha (by omega) (by rwa [htake])
  have hkind : unwritable t (nth a k) := by
    rw [hst.frame]
    exact hbad
  refine ⟨t, ?_, hst⟩
  rw [← List.take_append_drop k ws, storeWords_append, ht, htake, ← List.cons_getElem_drop_succ (h := hk)]
  rw [Access.ok_bind, storeWords, memWrite_unwritable (nth_aligned ha k) hkind, Access.abort_bind]

end Sys2Proof.Machine
end

section
/-! PROOF. Taking an exception from a state that can enter its handler (60_exceptions.md R412 to R414): the eight words
are a run of writes to RAM, the vector is a word of memory, and everything else is a field that entry sets or keeps. -/

namespace Sys2Proof.Machine

open Sys2Proof.Claims

variable {s t : State} {v ra : Word} {n : Nat}

/-! ### Aligned words -/

theorem wordAligned_eq_shift (v : Word) : wordAligned v = (v >>> 2) <<< 2 := by
  unfold wordAligned
  ext i hi
  simp only [BitVec.getElem_and, BitVec.getElem_shiftLeft]
  interval_cases i <;> simp

theorem toNat_wordAligned (v : Word) : (wordAligned v).toNat = v.toNat / 4 * 4 := by
  rw [wordAligned_eq_shift, BitVec.toNat_shiftLeft, BitVec.toNat_ushiftRight, Nat.shiftLeft_eq,
    Nat.shiftRight_eq_div_pow]
  omega

/-- A multiple of 4 is word-aligned already. -/
theorem wordAligned_of_mod (h : v.toNat % 4 = 0) : wordAligned v = v :=
  BitVec.eq_of_toNat_eq (by rw [toNat_wordAligned]; omega)

theorem State.stacksAligned.sp (h : s.stacksAligned) : s.sp.toNat % 4 = 0 := by
  unfold State.sp
  split
  · exact h.2
  · exact h.1

/-- Clearing bit 2 keeps a multiple of 4 one. -/
theorem framePointer_aligned (h : s.stacksAligned) : s.framePointer.toNat % 4 = 0 := by
  have hsp : (s.sp - 32).toNat % 2 ^ 2 = 0 := by
    have := h.sp
    rw [BitVec.toNat_sub]
    simp
    omega
  rw [State.framePointer, BitVec.toNat_and, show 4 = 2 ^ 2 from rfl, Nat.and_mod_two_pow, hsp, Nat.zero_and]

theorem vectorAddress_aligned (n : Nat) : (vectorAddress n).toNat % 4 = 0 := by
  rw [vectorAddress, BitVec.toNat_ofNat]
  omega

/-! ### The interrupt controller at entry -/

theorem clearBit_setBit {w : Nat} (b : BitVec w) (n : Nat) : clearBit (setBit b n) n = clearBit b n := by
  ext i hi
  simp only [clearBit, setBit, BitVec.getElem_and, BitVec.getElem_or, BitVec.getElem_not]
  cases (bitMask w n)[i] <;> simp

/-- A handler that starts takes the pending state away, whether it was there or not. -/
theorem Nvic.activate_pend (v : Nvic) (n : Nat) : (v.pend n).activate n = v.activate n := by
  simp [Nvic.activate, Nvic.pend, clearBit_setBit]

/-! ### Entry -/

/-- The state in which the handler of exception n starts, the frame standing in t (60_exceptions.md R412). -/
def handlerStart (n : Nat) (s t : State) : State :=
  (((t.setSp s.framePointer).enterMode n s.excReturn).toVector (wordAt t (vectorAddress n))).clobber

/-- The registers that entry does not make free are kept. -/
theorem x_handlerStart (ht : t.r = s.r) (m : Reg) (h4 : 4 ≤ m.toNat) (h11 : m.toNat ≤ 11) :
    (handlerStart n s t).x m = s.x m := by
  rw [State.x_of_lt _ _ (by omega), State.x_of_lt _ _ (by omega)]
  simp only [handlerStart, State.clobber_r, clobberRegs, regs_getD_set, State.toVector_r, State.enterMode_r,
    State.setSp_r, ht]
  repeat rw [if_neg (by omega)]

/-- With its frame stored and its vector readable, the exception is taken. -/
theorem takeException_eq (he : canEnter n s) :
    ∃ t, WordsStored s.framePointer (s.frameWords ra) s t ∧ takeException n ra s = .next (handlerStart n s t) := by
  obtain ⟨hreset, hmem, hsp, -, hframe, hvector⟩ := he
  obtain ⟨t, ht, hst⟩ := storeWords_writable (ws := s.frameWords ra) hmem (framePointer_aligned hsp)
    (by simp [State.frameWords]) hframe
  have hkind : readable ((t.setSp s.framePointer).enterMode n s.excReturn) (vectorAddress n) := by
    rw [hst.frame]
    exact hvector
  refine ⟨t, hst, ?_⟩
  rw [takeException_undisturbed hreset, enterException, ht]
  simp only [startHandler, memRead_readable (vectorAddress_aligned n) hkind]
  rfl

theorem usesPsp_iff (s : State) : s.usesPsp = true ↔ s.ipsr = 0 ∧ s.spsel = true := by
  simp [State.usesPsp, State.threadMode]

@[simp] theorem handlerStart_mem (n : Nat) (s t : State) : (handlerStart n s t).mem = t.mem := by
  simp [handlerStart]

/-- Entry sets the fields of the mode, the link and the exception, and takes the PC and T from the vector. -/
theorem handlerEntered_handlerStart (h : t = { s with mem := t.mem }) :
    handlerEntered n s.excReturn s (handlerStart n s t) := by
  have hvector := wordAt_of_mem (handlerStart_mem n s t) (vectorAddress n)
  refine ⟨?ipsr, ?spsel, ?lr, ?run, ?pc, ?thumb, ?nvic, x_handlerStart (by rw [h]), ?kept⟩
  case ipsr | spsel | lr | run => simp [handlerStart]
  case pc | thumb => rw [hvector]; simp [handlerStart]
  case nvic =>
    rw [h]
    simp only [handlerStart, State.clobber_nvic, State.toVector_nvic, State.enterMode_nvic, State.setSp_nvic]
    rfl
  case kept =>
    rw [h]
    simp [handlerStart]

/-- The stack pointer in use moves to the frame, which is aligned already, and the other one stays. -/
theorem handlerStart_stackPointers (hsp : s.stacksAligned) (h : t = { s with mem := t.mem }) :
    (handlerStart n s t).msp = (if s.ipsr = 0 ∧ s.spsel = true then s.msp else s.framePointer) ∧
    (handlerStart n s t).psp = (if s.ipsr = 0 ∧ s.spsel = true then s.framePointer else s.psp) := by
  have huse : t.usesPsp = s.usesPsp := by
    rw [h]
    rfl
  have hmsp : t.msp = s.msp := by rw [h]
  have hpsp : t.psp = s.psp := by rw [h]
  simp only [handlerStart, State.clobber_msp, State.toVector_msp, State.enterMode_msp, State.setSp_msp,
    State.clobber_psp, State.toVector_psp, State.enterMode_psp, State.setSp_psp, huse, hmsp, hpsp, usesPsp_iff,
    wordAligned_of_mod (framePointer_aligned hsp), and_self]

/-- The state in which the handler starts is the one that entry should leave. -/
theorem entered_handlerStart (hsp : s.stacksAligned) (h : WordsStored s.framePointer (s.frameWords ra) s t) :
    entered n ra s (handlerStart n s t) := by
  obtain ⟨hmsp, hpsp⟩ := handlerStart_stackPointers (n := n) hsp h.frame
  have hword (k : Nat) {v : Word} (hv : (s.frameWords ra)[k]? = some v) :
      wordAt (handlerStart n s t) (nth s.framePointer k) = v := by
    rw [wordAt_of_mem (handlerStart_mem n s t), h.word k v hv]
  refine ⟨hmsp, hpsp, hword 0 rfl, hword 1 rfl, hword 2 rfl, hword 3 rfl, hword 4 rfl, hword 5 rfl, hword 6 rfl,
    hword 7 rfl, fun b hb => ?_, handlerEntered_handlerStart h.frame⟩
  rw [handlerStart_mem]
  exact h.outside b hb

/-- An exception that can be entered is taken. -/
theorem takeException_entered (he : canEnter n s) : ∃ t, takeException n ra s = .next t ∧ entered n ra s t := by
  have ⟨_, _, hsp, _⟩ := he
  obtain ⟨t, hst, ht⟩ := takeException_eq (ra := ra) he
  exact ⟨handlerStart n s t, ht, entered_handlerStart hsp hst⟩

/-- That the exception was made pending before it was taken shows nowhere after its entry. -/
theorem entered_of_pend (h : entered n ra (s.pend n) t) : entered n ra s t := by
  obtain ⟨hmsp, hpsp, h0, h1, h2, h3, h4, h5, h6, h7, hout, hipsr, hspsel, hlr, hrun, hpc, hthumb, hnvic, hrest⟩ := h
  refine ⟨hmsp, hpsp, h0, h1, h2, h3, h4, h5, h6, h7, hout, hipsr, hspsel, hlr, hrun, hpc, hthumb, ?_, hrest⟩
  exact hnvic.trans (Nvic.activate_pend s.nvic n)

/-- A fault below the priority of HardFault takes it, with the instruction's own address as return address. -/
theorem raiseHardFault_entered (c : FaultCause) (hp : -1 < s.execPriority) (he : canEnter excHardFault s) :
    ∃ t, raiseHardFault c s = .next t ∧ entered excHardFault s.pc s t := by
  obtain ⟨t, ht, hent⟩ := takeException_entered (s := s.pend excHardFault) (ra := s.pc) he
  exact ⟨t, by rw [raiseHardFault, if_neg (not_le.mpr hp), ht], entered_of_pend hent⟩

end Sys2Proof.Machine
end

section
/-! PROOF. Multiple transfers that end before their last word (41_memory_access.md R243): abandoned for an exception, or
at a bus error. The idea: both leave the state of the accesses made so far, in which no register is written, and what an
STM or PUSH has stored by then is a first part of its words, in the order of the list. -/

namespace Sys2Proof.Machine

open Sys2Proof.Claims

variable {s t u : State} {a : Word} {ws : List Word} {list : RegList} {n k : Nat} {x : Bool}

/-! ### Register lists -/

/-- The registers of a list are those of 0 to 7 whose bit is set. -/
theorem listed_eq_map (list : RegList) :
    listed list = ((List.range 8).filter fun j => list.getLsbD j).map (BitVec.ofNat 3) := by
  have hall : ([0, 1, 2, 3, 4, 5, 6, 7] : List LowReg) = (List.range 8).map (BitVec.ofNat 3) := rfl
  rw [listed, hall, List.filter_map]
  rfl

@[simp] theorem length_listed (list : RegList) : (listed list).length = bitCount list := by
  rw [listed_eq_map, List.length_map, bitCount]

/-- A listed register stands in the list after as many as are below it. -/
theorem listed_getElem?_rank (i : LowReg) (hi : list.getLsbD i.toNat) : (listed list)[rank list i]? = some i := by
  have hsplit : List.range 8 = List.range i.toNat ++ i.toNat :: (List.range (7 - i.toNat)).map (i.toNat + 1 + ·) := by
    rw [show 8 = i.toNat + 1 + (7 - i.toNat) by omega, List.range_add, List.range_succ, List.append_assoc]
    simp
  rw [listed_eq_map, hsplit, List.filter_append, List.filter_cons_of_pos hi, List.map_append, rank,
    List.getElem?_append_right (by simp)]
  simp

@[simp] theorem length_listedValues (s : State) (list : RegList) : (s.listedValues list).length = bitCount list := by
  rw [State.listedValues, List.length_map, length_listed]

@[simp] theorem length_pushWords (s : State) (x : Bool) (list : RegList) :
    (s.pushWords x list).length = bitCount list + x.toNat := by
  rw [State.pushWords, List.length_append, length_listedValues]
  cases x <;> rfl

@[simp] theorem popCount_eq (x : Bool) (list : RegList) : popCount x list = bitCount list + x.toNat := by
  rw [popCount, length_listed]
  cases x <;> rfl

theorem bitCount_le (list : RegList) : bitCount list ≤ 8 := by
  simpa [bitCount] using List.length_filter_le (fun j => list.getLsbD j) (List.range 8)

theorem ne_zero_of_lt_bitCount (h : k < bitCount list) : list ≠ 0 := by
  rintro rfl
  exact absurd h (by simp [bitCount])

/-- A PUSH or POP that transfers a word names a register. -/
theorem not_empty_of_lt (h : k < bitCount list + x.toNat) : ¬ (x = false ∧ list = 0) := by
  rintro ⟨rfl, rfl⟩
  exact absurd h (by simp [bitCount])

/-- The words hold each register of the list at its place in it. -/
def HoldsListed (s : State) (list : RegList) (ws : List Word) : Prop :=
  ∀ i : LowReg, list.getLsbD i.toNat → ws[rank list i]? = some (s.lo i)

theorem holdsListed_listedValues (s : State) (list : RegList) : HoldsListed s list (s.listedValues list) := by
  intro i hi
  rw [State.listedValues, List.getElem?_map, listed_getElem?_rank i hi, Option.map_some]

theorem holdsListed_pushWords (s : State) (x : Bool) (list : RegList) : HoldsListed s list (s.pushWords x list) := by
  intro i hi
  have h := holdsListed_listedValues s list i hi
  rw [State.pushWords, List.getElem?_append_left (List.getElem?_eq_some_iff.mp h).1, h]

/-- Where the first k words have been stored, the registers at the first k places of the list stand in memory. -/
theorem WordsStored.listed (h : WordsStored a (ws.take k) s t) (hk : k ≤ ws.length) (hws : HoldsListed u list ws) :
    (∀ i : LowReg, list.getLsbD i.toNat → rank list i < k → wordAt t (nth a (rank list i)) = u.lo i) ∧
    sameOutside s t a k := by
  refine ⟨fun i hi hik => h.word _ _ (by rw [List.getElem?_take_of_lt hik, hws i hi]), ?_⟩
  have hout := h.outside
  rwa [List.length_take, min_eq_left hk] at hout

/-! ### The four instructions as transfers

What each does after its last word plays no part in a transfer that ends before it. -/

theorem exec_ldm (rn : LowReg) (hk : k < bitCount list) :
    ∃ done, exec (.ldm rn list) s = loadTransfer (bitCount list) (s.lo rn) done s :=
  ⟨_, by simp only [exec, execLdm, if_neg (ne_zero_of_lt_bitCount hk), length_listed]; rfl⟩

theorem exec_pop (x : Bool) (hk : k < bitCount list + x.toNat) :
    ∃ done, exec (.pop x list) s = loadTransfer (bitCount list + x.toNat) s.sp done s :=
  ⟨_, by simp only [exec, execPop, if_neg (not_empty_of_lt hk), popCount_eq]; rfl⟩

theorem exec_stm (rn : LowReg) (hk : k < bitCount list) (hbase : baseNotLowest rn list = false) :
    ∃ done, exec (.stm rn list) s = storeTransfer (s.listedValues list) (s.lo rn) done s :=
  ⟨_, by simp only [exec, execStm, if_neg (ne_zero_of_lt_bitCount hk), hbase]; rfl⟩

theorem exec_push (x : Bool) (hk : k < bitCount list + x.toNat) :
    ∃ done, exec (.push x list) s = storeTransfer (s.pushWords x list) (s.pushBase x list) done s :=
  ⟨_, by simp only [exec, execPush, if_neg (not_empty_of_lt hk)]; rfl⟩

theorem pushBase_aligned (h : s.stacksAligned) (x : Bool) (list : RegList) :
    (s.pushBase x list).toNat % 4 = 0 := by
  have hsp := h.sp
  rw [State.pushBase, byteCount, BitVec.toNat_sub, BitVec.toNat_ofNat]
  omega

/-! ### Abandoned for an exception -/

/-- An interruption after k transfers that lets an exception in, and no reset. -/
structure Abandons (s : State) (k : Nat) : Prop where
  noReset : s.env.resetInTransfer = none
  mid : ∃ ms, s.env.mid = some ms ∧ ms.after = k
  preempts : s.interrupted.preempting.isSome = true

theorem transfer_abandoned {α : Type} {accesses : Nat → State → Access α} {done : α → State → Result}
    (h : Abandons s k) (hk : k < n) :
    transfer n accesses done s = (accesses k s.interrupted).finish fun _ t => .next t := by
  obtain ⟨hreset, ⟨ms, hmid, rfl⟩, hpre⟩ := h
  simp [transfer, State.cut, hreset, hmid, hk, hpre]

/-- Reads made so far leave the state of the interruption. -/
theorem loadTransfer_abandoned {done : List Word → State → Result} (h : Abandons s k) (hk : k < n)
    (ha : a.toNat % 4 = 0) (hr : ∀ j < k, readable s (nth a j)) : loadTransfer n a done s = .next s.interrupted := by
  have hsame := (interrupted_sameCore s).2
  obtain ⟨vs, hvs⟩ := loadWords_readable (s := s.interrupted) ha fun j hj => by
    simpa only [readable, hsame.kindAt] using hr j hj
  rw [loadTransfer, transfer_abandoned h hk, hvs]
  rfl

/-- Writes made so far have stored the first words on top of the state of the interruption. -/
theorem storeTransfer_abandoned {done : State → Result} (h : Abandons s k) (hk : k < ws.length)
    (hlen : ws.length ≤ 9) (hs : s.memoryCanonical) (ha : a.toNat % 4 = 0) (hw : ∀ j < k, writable s (nth a j))
    (hws : HoldsListed s list ws) :
    ∃ t, storeTransfer ws a done s = .next t ∧ t = { s.interrupted with mem := t.mem } ∧
      (∀ i : LowReg, list.getLsbD i.toNat → rank list i < k → wordAt t (nth a (rank list i)) = s.lo i) ∧
      sameOutside s t a k := by
  have hsame := (interrupted_sameCore s).2
  have hs' : s.interrupted.memoryCanonical := by rwa [State.memoryCanonical, hsame.mem]
  have htake : (ws.take k).length = k := List.length_take_of_le hk.le
  obtain ⟨t, ht, hst⟩ := storeWords_writable (ws := ws.take k) hs' ha (by omega) fun j hj => by
    simpa only [writable, hsame.kindAt] using hw j (by omega)
  obtain ⟨hlisted, hout⟩ := hst.listed hk.le hws
  refine ⟨t, ?_, hst.frame, hlisted, ?_⟩
  · rw [storeTransfer, transfer_abandoned h hk, ht]
    rfl
  · simpa only [sameOutside, hsame.mem] using hout

/-- Settles O29: each instruction is a transfer, and an abandoned transfer leaves the state of the interruption with, for
STM and PUSH, the first words stored on top. -/
theorem abandonedTransfersRestart : Obligations.AbandonedTransfersRestart := by
  intro s x list rn ms hreset hmid hpre hmem hsp
  obtain ⟨hcore, hstore⟩ := interrupted_sameCore s
  have hab : Abandons s ms.after := ⟨hreset, ⟨ms, hmid, rfl⟩, hpre⟩
  have hcount := bitCount_le list
  have hx := Bool.toNat_le x
  refine ⟨hcore.pc, hcore.r, hcore.msp, hcore.psp, hstore.mem, fun hk hw => ?push, fun hk hb ha hw => ?stm,
    fun hk hr => ?pop, fun hk ha hr => ?ldm⟩
  case push =>
    obtain ⟨done, hexec⟩ := exec_push (s := s) x hk
    rw [hexec]
    exact storeTransfer_abandoned hab (by simpa using hk) (by simp; omega) hmem (pushBase_aligned hsp x list) hw
      (holdsListed_pushWords s x list)
  case stm =>
    obtain ⟨done, hexec⟩ := exec_stm (s := s) rn hk hb
    rw [hexec]
    exact storeTransfer_abandoned hab (by simpa using hk) (by simp; omega) hmem ha hw (holdsListed_listedValues s list)
  case pop =>
    obtain ⟨done, hexec⟩ := exec_pop (s := s) x hk
    rw [hexec, loadTransfer_abandoned hab hk hsp.sp hr]
  case ldm =>
    obtain ⟨done, hexec⟩ := exec_ldm (s := s) rn hk
    rw [hexec, loadTransfer_abandoned hab hk ha hr]

/-! ### A bus error -/

/-- A bus error among the reads takes HardFault from the state before the instruction. -/
theorem loadTransfer_unreadable {done : List Word → State → Result} (hu : s.undisturbed) (hp : -1 < s.execPriority)
    (he : canEnter 3 s) (hk : k < n) (ha : a.toNat % 4 = 0) (hr : ∀ j < k, readable s (nth a j))
    (hbad : unreadable s (nth a k)) : ∃ t, loadTransfer n a done s = .next t ∧ entered 3 s.pc s t := by
  rw [loadTransfer, transfer_undisturbed hu, loadWords_unreadable ha hk hr hbad]
  exact raiseHardFault_entered .busError hp he

/-- A bus error among the writes takes HardFault from the state in which the words before it are stored. -/
theorem storeTransfer_unwritable {done : State → Result} (hu : s.undisturbed) (hp : -1 < s.execPriority)
    (he : canEnter 3 s) (hk : k < ws.length) (hlen : ws.length ≤ 9) (ha : a.toNat % 4 = 0)
    (hw : ∀ j < k, writable s (nth a j)) (hbad : unwritable s (nth a k)) (hws : HoldsListed s list ws) :
    ∃ u t, storeTransfer ws a done s = .next t ∧ entered 3 s.pc u t ∧ u = { s with mem := u.mem } ∧
      (∀ i : LowReg, list.getLsbD i.toNat → rank list i < k → wordAt u (nth a (rank list i)) = s.lo i) ∧
      sameOutside s u a k := by
  obtain ⟨hreset, hmem, hentry⟩ := he
  obtain ⟨u, hrun, hst⟩ := storeWords_unwritable (ws := ws) hmem ha (by omega) hk hw hbad
  have hframe := hst.frame
  have hcan : canEnter 3 u := by
    refine ⟨?_, hst.canonical, ?_⟩ <;> rw [hframe] <;> assumption
  have hpu : -1 < u.execPriority := by
    rw [hframe]
    exact hp
  have hpc : u.pc = s.pc := by rw [hframe]
  obtain ⟨t, ht, hent⟩ := raiseHardFault_entered .busError hpu hcan
  rw [hpc] at hent
  refine ⟨u, t, ?_, hent, hframe, hst.listed hk.le hws⟩
  rw [storeTransfer, transfer_undisturbed hu, List.take_length, hrun]
  exact ht

/-- Settles O30: each instruction is a transfer whose accesses stop at the bus error, and HardFault is taken from the
state they leave. -/
theorem busErrorsInsideTransfers : Obligations.BusErrorsInsideTransfers := by
  intro s x list rn k hu hp he
  have ⟨_, _, hsp, _⟩ := he
  have hcount := bitCount_le list
  have hx := Bool.toNat_le x
  refine ⟨fun hk ha hr hbad => ?ldm, fun hk hr hbad => ?pop, fun hk hb ha hw hbad => ?stm, fun hk hw hbad => ?push⟩
  case ldm =>
    obtain ⟨done, hexec⟩ := exec_ldm (s := s) rn hk
    rw [takesHardFault, hexec]
    exact loadTransfer_unreadable hu hp he hk ha hr hbad
  case pop =>
    obtain ⟨done, hexec⟩ := exec_pop (s := s) x hk
    rw [takesHardFault, hexec]
    exact loadTransfer_unreadable hu hp he hk hsp.sp hr hbad
  case stm =>
    obtain ⟨done, hexec⟩ := exec_stm (s := s) rn hk hb
    rw [hexec]
    exact storeTransfer_unwritable hu hp he (by simpa using hk) (by simp; omega) ha hw hbad
      (holdsListed_listedValues s list)
  case push =>
    obtain ⟨done, hexec⟩ := exec_push (s := s) x hk
    rw [hexec]
    exact storeTransfer_unwritable hu hp he (by simpa using hk) (by simp; omega) (pushBase_aligned hsp x list) hw hbad
      (holdsListed_pushWords s x list)

end Sys2Proof.Machine
end

section
/-! PROOF. ADR and the additions to the stack pointer (41_memory_access.md R220, 42_arith_logic_shift_compare.md R265,
R266, R275) with their encodings. The idea: rounding down to a word is a division, a sum of multiples of 4 is one, and a
16-bit encoding is read back field by field. -/

namespace Sys2Proof.Machine

open Sys2Proof.Claims

variable {s : State} {v : Word}

/-! ### Encodings -/

theorem halfOfBytes_halfBytes (h : Half) :
    halfOfBytes (BitVec.ofNat 8 h.toNat) (BitVec.ofNat 8 (h.toNat / 256)) = h := by
  refine BitVec.eq_of_toNat_eq ?_
  rw [halfOfBytes, toNat_append_byte, BitVec.toNat_ofNat, BitVec.toNat_ofNat]
  omega

/-- A halfword that starts no 32-bit instruction is decoded on its own. -/
theorem decodeTableWord_narrow {w : Nat} (hw : w < 0xE800) : decodeTableWord 16 w = decode16 w := by
  have hnat : (BitVec.ofNat 16 w).toNat = w := Nat.mod_eq_of_lt (by omega)
  have hnarrow : isWide w = false := decide_eq_false (by simp only [bitsAt]; omega)
  have hhalf := halfOfBytes_halfBytes (BitVec.ofNat 16 w)
  rw [hnat] at hhalf
  simp only [decodeTableWord, tableWordBytes, halfBytes, decode, decodeHalves, hnat, hhalf, hnarrow, Nat.le_refl,
    if_true, List.cons_append]
  cases decode16 w <;> rfl

theorem field_eq {w lo len : Nat} {x : BitVec len} (h : w / 2 ^ lo % 2 ^ len = x.toNat) : field w lo len = x :=
  BitVec.eq_of_toNat_eq (by rw [field, BitVec.toNat_ofNat, h])

/-- A register in bits 10 to 8 and a byte below it, read back from the halfword they make with the five bits above. -/
theorem fields_of_imm8 (op : Nat) (r : LowReg) (imm8 : BitVec 8) :
    bitsAt (op * 2048 + r.toNat * 256 + imm8.toNat) 11 5 = op % 32 ∧
    field (op * 2048 + r.toNat * 256 + imm8.toNat) 8 3 = r ∧
    field (op * 2048 + r.toNat * 256 + imm8.toNat) 0 8 = imm8 :=
  ⟨by rw [bitsAt]; omega, field_eq (by omega), field_eq (by omega)⟩

theorem coded_adr (rd : LowReg) (imm8 : BitVec 8) : coded (0xA000 + rd.toNat * 256 + imm8.toNat) (.adr rd imm8) := by
  obtain ⟨hop, hrd, himm⟩ := fields_of_imm8 20 rd imm8
  rw [coded, decodeTableWord_narrow (by omega)]
  simp only [decode16, hop, hrd, himm]

theorem coded_addSpRd (rd : LowReg) (imm8 : BitVec 8) :
    coded (0xA800 + rd.toNat * 256 + imm8.toNat) (.addSpRd rd imm8) := by
  obtain ⟨hop, hrd, himm⟩ := fields_of_imm8 21 rd imm8
  rw [coded, decodeTableWord_narrow (by omega)]
  simp only [decode16, hop, hrd, himm]

/-- The two moves of the stack pointer differ in bit 7 (30_encoding.md R156). -/
theorem decode16_moveSp (sub : Bool) (imm7 : BitVec 7) :
    decode16 (0xB000 + sub.toNat * 128 + imm7.toNat) = some (if sub then .subSpImm imm7 else .addSpImm imm7) := by
  have hsub := Bool.toNat_le sub
  have hop : bitsAt (0xB000 + sub.toNat * 128 + imm7.toNat) 11 5 = 22 := by rw [bitsAt]; omega
  have hmisc : bitsAt (0xB000 + sub.toNat * 128 + imm7.toNat) 8 4 = 0 := by rw [bitsAt]; omega
  have hbit : bitsAt (0xB000 + sub.toNat * 128 + imm7.toNat) 7 1 = sub.toNat := by rw [bitsAt]; omega
  have himm : field (0xB000 + sub.toNat * 128 + imm7.toNat) 0 7 = imm7 := field_eq (by omega)
  simp only [decode16, decodeMisc, hop, hmisc, hbit, himm]
  cases sub <;> rfl

theorem coded_addSpImm (imm7 : BitVec 7) : coded (0xB000 + imm7.toNat) (.addSpImm imm7) := by
  rw [coded, decodeTableWord_narrow (by omega)]
  exact decode16_moveSp false imm7

theorem coded_subSpImm (imm7 : BitVec 7) : coded (0xB080 + imm7.toNat) (.subSpImm imm7) := by
  rw [coded, decodeTableWord_narrow (by omega)]
  exact decode16_moveSp true imm7

/-! ### Addresses -/

theorem scaled_four_aligned {w : Nat} (imm : BitVec w) : (scaled imm 4).toNat % 4 = 0 := by
  rw [scaled, BitVec.toNat_ofNat]
  omega

theorem wordAligned_eq_ofNat (v : Word) : wordAligned v = BitVec.ofNat 32 (v.toNat / 4 * 4) := by
  rw [← toNat_wordAligned, BitVec.ofNat_toNat, BitVec.setWidth_eq]

theorem exec_adr (rd : LowReg) (imm8 : BitVec 8) (s : State) :
    exec (.adr rd imm8) s =
      .next (wrote s rd (BitVec.ofNat 32 ((s.pc + 4).toNat / 4 * 4 + imm8.toNat * 4)) s.flags) := by
  rw [BitVec.ofNat_add, ← wordAligned_eq_ofNat]
  rfl

/-- Writing an aligned value to the stack pointer in use leaves the other one alone. -/
theorem setSp_advance_of_aligned (h : v.toNat % 4 = 0) :
    (s.setSp v).advance 2 =
      if s.ipsr = 0 ∧ s.spsel = true then { s with psp := v, pc := s.pc + 2 } else { s with msp := v, pc := s.pc + 2 } := by
  simp only [State.setSp, wordAligned_of_mod h, usesPsp_iff]
  split <;> rfl

/-- Settles O16: the addresses by rounding down to a word, the stack pointers because a sum of multiples of 4 needs no
rounding, the encodings field by field. -/
theorem addressesAndStackPointerArithmetic : Obligations.AddressesAndStackPointerArithmetic := by
  intro s rd imm8 imm7
  refine ⟨exec_adr rd imm8 s, coded_adr rd imm8, rfl, coded_addSpRd rd imm8, fun hsp => ⟨?up, ?down⟩,
    coded_addSpImm imm7, coded_subSpImm imm7⟩
  all_goals
    have hs := hsp.sp
    have himm := scaled_four_aligned imm7
  case up => exact congrArg _ (setSp_advance_of_aligned (v := s.sp + scaled imm7 4) (by rw [BitVec.toNat_add]; omega))
  case down => exact congrArg _ (setSp_advance_of_aligned (v := s.sp - scaled imm7 4) (by rw [BitVec.toNat_sub]; omega))

end Sys2Proof.Machine
end

section
/-! PROOF. The encodings of the formats with two or three low registers and of CMP on high registers
(30_encoding.md R151 to R153): one lemma per format, for every operation of it. The idea: the operation number and the
operands stand in fields of their own, so that a decoder that reads only those fields gives them back. -/

namespace Sys2Proof.Machine

open Sys2Proof.Claims

/-- The operations on two registers, in the order of their numbers (30_encoding.md R151). -/
def dataProcessing (rdn rm : LowReg) : List Instr :=
  [.ands rdn rm, .eors rdn rm, .lslsReg rdn rm, .lsrsReg rdn rm, .asrsReg rdn rm, .adcs rdn rm, .sbcs rdn rm,
    .rorsReg rdn rm, .tst rdn rm, .rsbs rdn rm, .cmpReg rdn rm, .cmn rdn rm, .orrs rdn rm, .muls rdn rm,
    .bics rdn rm, .mvns rdn rm]

/-- The decoder looks an operation on two registers up by its number. -/
theorem decodeDataProcessing_eq_getElem? (w : Nat) :
    decodeDataProcessing w = (dataProcessing (field w 0 3) (field w 3 3))[bitsAt w 6 4]? := by
  have hop : bitsAt w 6 4 < 16 := Nat.mod_lt _ (by decide)
  unfold decodeDataProcessing
  generalize bitsAt w 6 4 = op at hop
  interval_cases op <;> rfl

/-- Format DP (30_encoding.md R151). -/
theorem coded_of_dataProcessing {op : Nat} {rdn rm : LowReg} {i : Instr} (h : (dataProcessing rdn rm)[op]? = some i) :
    coded (0x4000 + op * 64 + rm.toNat * 8 + rdn.toNat) i := by
  obtain ⟨hlt, -⟩ := List.getElem?_eq_some_iff.mp h
  have hop : op < 16 := hlt
  rw [coded, decodeTableWord_narrow (by omega)]
  generalize hw : 0x4000 + op * 64 + rm.toNat * 8 + rdn.toNat = w
  have hmajor : bitsAt w 11 5 = 8 := by rw [bitsAt]; omega
  have hdp : bitsAt w 10 1 = 0 := by rw [bitsAt]; omega
  have hnum : bitsAt w 6 4 = op := by rw [bitsAt]; omega
  have hrm : field w 3 3 = rm := field_eq (by omega)
  have hrdn : field w 0 3 = rdn := field_eq (by omega)
  simp only [decode16, hmajor, hdp, if_true, decodeDataProcessing_eq_getElem?, hnum, hrm, hrdn, h]

/-- A register above a byte (30_encoding.md R152). -/
theorem coded_of_imm8 {op : Nat} {mk : LowReg → BitVec 8 → Instr} {r : LowReg} {imm8 : BitVec 8} (hop : op < 29)
    (h : ∀ w, bitsAt w 11 5 = op → decode16 w = some (mk (field w 8 3) (field w 0 8))) :
    coded (op * 2048 + r.toNat * 256 + imm8.toNat) (mk r imm8) := by
  obtain ⟨hmajor, hr, himm⟩ := fields_of_imm8 op r imm8
  rw [coded, decodeTableWord_narrow (by omega), h _ (by omega), hr, himm]

/-- A five-bit immediate above two registers (30_encoding.md R152). -/
theorem coded_of_imm5 {op w : Nat} {mk : LowReg → LowReg → BitVec 5 → Instr} {rd rm : LowReg} {imm5 : BitVec 5}
    (hop : op < 29) (hw : w = op * 2048 + imm5.toNat * 64 + rm.toNat * 8 + rd.toNat)
    (h : ∀ w, bitsAt w 11 5 = op → decode16 w = some (mk (field w 0 3) (field w 3 3) (field w 6 5))) :
    coded w (mk rd rm imm5) := by
  have hrd : field w 0 3 = rd := field_eq (by omega)
  have hrm : field w 3 3 = rm := field_eq (by omega)
  have himm : field w 6 5 = imm5 := field_eq (by omega)
  rw [coded, decodeTableWord_narrow (by omega), h w (by rw [bitsAt]; omega), hrd, hrm, himm]

/-- Addition and subtraction with three operands, the third a register or a three-bit immediate
(30_encoding.md R152). -/
theorem coded_of_addSub {op : Nat} {mk : LowReg → LowReg → BitVec 3 → Instr} {rd rn : LowReg} {third : BitVec 3}
    (hop : op < 4)
    (h : ∀ w, bitsAt w 9 2 = op → decodeAddSub w = some (mk (field w 0 3) (field w 3 3) (field w 6 3))) :
    coded (0x1800 + op * 512 + third.toNat * 64 + rn.toNat * 8 + rd.toNat) (mk rd rn third) := by
  rw [coded, decodeTableWord_narrow (by omega)]
  generalize hw : 0x1800 + op * 512 + third.toNat * 64 + rn.toNat * 8 + rd.toNat = w
  have hmajor : bitsAt w 11 5 = 3 := by rw [bitsAt]; omega
  have hrd : field w 0 3 = rd := field_eq (by omega)
  have hrn : field w 3 3 = rn := field_eq (by omega)
  have hthird : field w 6 3 = third := field_eq (by omega)
  simp only [decode16, hmajor]
  rw [h w (by rw [bitsAt]; omega), hrd, hrn, hthird]

/-- A register number 0 to 15 in two parts, its top bit apart from the low three (30_encoding.md R145). -/
theorem highReg_eq {w : Nat} {r : Reg} (htop : bitsAt w 7 1 = r.toNat / 8) (hlow : bitsAt w 0 3 = r.toNat % 8) :
    highReg w = r := by
  refine BitVec.eq_of_toNat_eq ?_
  rw [highReg, htop, hlow, BitVec.toNat_ofNat]
  omega

/-- The halfwords of CMP in the high-register encoding (30_encoding.md R153). -/
theorem decode16_cmpHigh {w : Nat} (hlo : 0x4500 ≤ w) (hhi : w < 0x4600) :
    decode16 w = some (.cmpHigh (highReg w) (field w 3 4)) := by
  have hmajor : bitsAt w 11 5 = 8 := by rw [bitsAt]; omega
  have hspecial : bitsAt w 10 1 = 1 := by rw [bitsAt]; omega
  have hcmp : bitsAt w 8 2 = 1 := by rw [bitsAt]; omega
  simp only [decode16, decodeSpecialData, hmajor, hspecial, hcmp, Nat.one_ne_zero, if_false]

theorem coded_cmpHigh (rn rm : Reg) :
    coded (0x4500 + rn.toNat / 8 * 128 + rm.toNat * 8 + rn.toNat % 8) (.cmpHigh rn rm) := by
  generalize hw : 0x4500 + rn.toNat / 8 * 128 + rm.toNat * 8 + rn.toNat % 8 = w
  have hrn : highReg w = rn := highReg_eq (by rw [bitsAt]; omega) (by rw [bitsAt]; omega)
  have hrm : field w 3 4 = rm := field_eq (by omega)
  rw [coded, decodeTableWord_narrow (by omega), decode16_cmpHigh (by omega) (by omega), hrn, hrm]

end Sys2Proof.Machine
end

section
/-! PROOF. The additions, subtractions, comparisons, logical operations and shifts (42_arith_logic_shift_compare.md,
43_move_mul_rev_extend_test.md sections 1, 2 and 5), each with its encoding. The idea: there are three ways to write a
result with flags (all four; N and Z; N, Z and the shift's carry), and the model's one addition with carry subtracts
when it is given a complement, a carry in of 1 meaning that nothing is borrowed. -/

namespace Sys2Proof.Machine

open Sys2Proof.Claims

variable {s : State} {rd : LowReg} {x y v : Word} {cin : Bool}

/-! ### Flags of an addition -/

theorem getLsbD_31_eq_msb (v : Word) : v.getLsbD 31 = v.msb := (BitVec.msb_eq_getLsbD_last v).symm

theorem ofSum_addWithCarry : Flags.ofSum (addWithCarry x y cin) = addFlags x y cin.toNat := by
  have hvalue := addWithCarry_value x y cin
  have hoverflow : (addWithCarry x y cin).overflow =
      decide ((addWithCarry x y cin).value.toInt ≠ x.toInt + y.toInt + cin.toNat) := rfl
  rw [Flags.ofSum, hoverflow, hvalue, getLsbD_31_eq_msb]
  rfl

/-! ### Addition of a complement -/

theorem toInt_complement (y : Word) : (~~~y).toInt = -y.toInt - 1 := by
  simp only [BitVec.toInt_eq_toNat_cond, BitVec.toNat_not]
  omega

/-- Adding the complement subtracts, and one more where the carry in is clear. -/
theorem add_complement_eq_sub (x y : Word) (cin : Bool) :
    x + ~~~y + BitVec.ofNat 32 cin.toNat = x - y - BitVec.ofNat 32 (1 - cin.toNat) := by
  cases cin <;> simp only [Bool.toNat_false, Bool.toNat_true] <;> bv_omega

theorem addFlags_complement : addFlags x (~~~y) cin.toNat = subFlags x y (1 - cin.toNat) := by
  have hcin := Bool.toNat_le cin
  have hcarry : 2 ^ 32 ≤ x.toNat + (~~~y).toNat + cin.toNat ↔ y.toNat + (1 - cin.toNat) ≤ x.toNat := by
    rw [BitVec.toNat_not]
    omega
  have hsigned : x.toInt + (~~~y).toInt + cin.toNat = x.toInt - y.toInt - (1 - cin.toNat : Nat) := by
    rw [toInt_complement]
    omega
  simp only [addFlags, subFlags, add_complement_eq_sub, hcarry, hsigned]

/-! ### Results and flags written -/

theorem putSum_addWithCarry :
    s.putSum rd (addWithCarry x y cin) = wrote s rd (x + y + BitVec.ofNat 32 cin.toNat) (addFlags x y cin.toNat) := by
  rw [← addWithCarry_value, ← ofSum_addWithCarry]
  rfl

theorem putSum_add : s.putSum rd (addWithCarry x y false) = wrote s rd (x + y) (addFlags x y 0) := by
  rw [putSum_addWithCarry, Bool.toNat_false, BitVec.add_zero]

theorem putSum_addWithCarry_complement :
    s.putSum rd (addWithCarry x (~~~y) cin) =
      wrote s rd (x - y - BitVec.ofNat 32 (1 - cin.toNat)) (subFlags x y (1 - cin.toNat)) := by
  rw [putSum_addWithCarry, add_complement_eq_sub, addFlags_complement]

theorem putSum_subtract : s.putSum rd (subtract x y) = wrote s rd (x - y) (subFlags x y 0) := by
  rw [subtract, putSum_addWithCarry_complement, Bool.toNat_true, Nat.sub_self, BitVec.sub_zero]

theorem compareSum_add :
    s.compareSum (addWithCarry x y false) = { s with flags := addFlags x y 0, pc := s.pc + 2 } := by
  rw [State.compareSum, ofSum_addWithCarry]
  rfl

theorem compareSum_subtract :
    s.compareSum (subtract x y) = { s with flags := subFlags x y 0, pc := s.pc + 2 } := by
  rw [State.compareSum, subtract, ofSum_addWithCarry, addFlags_complement]
  rfl

theorem setNZ_eq (f : Flags) (v : Word) : f.setNZ v = { f with n := v.msb, z := decide (v = 0) } := by
  rw [Flags.setNZ, getLsbD_31_eq_msb, beq_eq_decide]

theorem putNZ_eq : s.putNZ rd v = wrote s rd v { s.flags with n := v.msb, z := decide (v = 0) } := by
  rw [State.putNZ, setNZ_eq]
  rfl

theorem putShifted_eq (r : Shifted) :
    s.putShifted rd r =
      wrote s rd r.value { s.flags with n := r.value.msb, z := decide (r.value = 0), c := r.carry } := by
  rw [State.putShifted, Flags.setNZC, getLsbD_31_eq_msb, beq_eq_decide]
  rfl

/-- The immediate as the instruction's meaning takes it (30_encoding.md R146). -/
theorem scaled_one {w : Nat} (imm : BitVec w) : scaled imm 1 = imm.setWidth 32 := by
  rw [scaled, Nat.mul_one, BitVec.ofNat_toNat]

/-! ### Instructions -/

theorem exec_cmpHigh_of_operands {rn rm : Reg} (hhigh : 8 ≤ rn.toNat ∨ 8 ≤ rm.toNat) (hn : rn ≠ 15)
    (hm : rm ≠ 15) :
    exec (.cmpHigh rn rm) s = .next { s with flags := subFlags (s.x rn) (s.x rm) 0, pc := s.pc + 2 } := by
  have hrun : exec (.cmpHigh rn rm) s = .next (s.compareSum (subtract (s.x rn) (s.x rm))) :=
    if_neg (by rintro (hlow | h15 | h15); exacts [by omega, hn h15, hm h15])
  rw [hrun, compareSum_subtract]

theorem exec_muls (rdm rn : LowReg) (s : State) :
    exec (.muls rdm rn) s = .next (s.putNZ rdm (BitVec.ofNat 32 ((s.lo rn).toNat * (s.lo rdm).toNat))) := by
  rw [BitVec.ofNat_mul, BitVec.ofNat_toNat, BitVec.ofNat_toNat, BitVec.setWidth_eq, BitVec.setWidth_eq]
  rfl

theorem exec_tst (rn rm : LowReg) (s : State) :
    exec (.tst rn rm) s =
      .next { s with
        flags := { s.flags with n := (s.lo rn &&& s.lo rm).msb, z := decide (s.lo rn &&& s.lo rm = 0) }
        pc := s.pc + 2 } := by
  rw [← setNZ_eq]
  rfl

/-- LSLS by 0 is MOVS on registers: it keeps C (43_move_mul_rev_extend_test.md R311). -/
theorem exec_lslsImm_zero (rd rm : LowReg) (s : State) :
    exec (.lslsImm rd rm 0) s =
      .next (wrote s rd (s.lo rm) { s.flags with n := (s.lo rm).msb, z := decide (s.lo rm = 0) }) :=
  congrArg Host.Outcome.next (putShifted_eq (lslC (s.lo rm) 0 s.flags.c))

/-! ### The statements -/

/-- Settles O7: each form is the addition with carry of its operands, the carry in 0 but for ADCS. -/
theorem additionsWriteSumAndFlags : Obligations.AdditionsWriteSumAndFlags := by
  intro s rd rn rm imm3 imm8
  rw [← scaled_one imm3, ← scaled_one imm8]
  exact ⟨congrArg _ putSum_add,
    coded_of_addSub (op := 0) (mk := .addsReg) (by decide) fun _ h => by simp only [decodeAddSub, h],
    congrArg _ putSum_add,
    coded_of_addSub (op := 2) (mk := .addsImm3) (by decide) fun _ h => by simp only [decodeAddSub, h],
    congrArg _ putSum_add,
    coded_of_imm8 (op := 6) (mk := .addsImm8) (by decide) fun _ h => by simp only [decode16, h],
    congrArg _ putSum_addWithCarry, coded_of_dataProcessing (op := 5) rfl,
    congrArg _ compareSum_add, coded_of_dataProcessing (op := 11) rfl⟩

/-- Settles O8: each form adds a complement, the carry in 1 but for SBCS. -/
theorem subtractionsWriteDifferenceAndFlags : Obligations.SubtractionsWriteDifferenceAndFlags := by
  intro s rd rn rm imm3 imm8
  rw [← scaled_one imm3, ← scaled_one imm8, ← BitVec.zero_sub (s.lo rn)]
  exact ⟨congrArg _ putSum_subtract,
    coded_of_addSub (op := 1) (mk := .subsReg) (by decide) fun _ h => by simp only [decodeAddSub, h],
    congrArg _ putSum_subtract,
    coded_of_addSub (op := 3) (mk := .subsImm3) (by decide) fun _ h => by simp only [decodeAddSub, h],
    congrArg _ putSum_subtract,
    coded_of_imm8 (op := 7) (mk := .subsImm8) (by decide) fun _ h => by simp only [decode16, h],
    congrArg _ putSum_subtract, coded_of_dataProcessing (op := 9) rfl,
    congrArg _ putSum_addWithCarry_complement, coded_of_dataProcessing (op := 6) rfl⟩

/-- Settles O9: the subtraction's flags alone; what R307 refuses is the guard of the high-register form. -/
theorem comparisonsWriteFlagsOnly : Obligations.ComparisonsWriteFlagsOnly := by
  intro s rn rm hn hm imm8
  rw [← scaled_one imm8]
  exact ⟨congrArg _ compareSum_subtract, coded_of_dataProcessing (op := 10) rfl,
    congrArg _ compareSum_subtract,
    coded_of_imm8 (op := 5) (mk := .cmpImm) (by decide) fun _ h => by simp only [decode16, h],
    exec_cmpHigh_of_operands, fun hrefused => if_pos hrefused, coded_cmpHigh hn hm⟩

/-- Settles O10: each form puts its result with N and Z; TST sets them without a register. -/
theorem resultsSetNZ : Obligations.ResultsSetNZ := by
  intro s rd rm imm8 nz put
  rw [← scaled_one imm8]
  have next_putNZ (v : Word) : (.next (s.putNZ rd v) : Result) = .next (put v) := congrArg _ putNZ_eq
  exact ⟨next_putNZ _, coded_of_dataProcessing (op := 0) rfl,
    next_putNZ _, coded_of_dataProcessing (op := 12) rfl,
    next_putNZ _, coded_of_dataProcessing (op := 1) rfl,
    next_putNZ _, coded_of_dataProcessing (op := 14) rfl,
    next_putNZ _, coded_of_dataProcessing (op := 15) rfl,
    (exec_muls rd rm s).trans (next_putNZ _), coded_of_dataProcessing (op := 13) rfl,
    next_putNZ _,
    coded_of_imm8 (op := 4) (mk := .movsImm) (by decide) fun _ h => by simp only [decode16, h],
    exec_tst rd rm s, coded_of_dataProcessing (op := 8) rfl⟩

/-- Settles O13: each form puts what its shift function answers for the length that its operand stands for. -/
theorem shiftsWriteResultNZC : Obligations.ShiftsWriteResultNZC := by
  intro s rd rm imm5 put n k
  have next_putShifted (r : Shifted) : (.next (s.putShifted rd r) : Result) = .next (put r) :=
    congrArg _ (putShifted_eq r)
  exact ⟨next_putShifted _,
    coded_of_imm5 (op := 0) (mk := .lslsImm) (by decide) (by omega) fun _ h => by simp only [decode16, h],
    next_putShifted _,
    coded_of_imm5 (op := 1) (mk := .lsrsImm) (by decide) (by omega) fun _ h => by simp only [decode16, h],
    next_putShifted _,
    coded_of_imm5 (op := 2) (mk := .asrsImm) (by decide) (by omega) fun _ h => by simp only [decode16, h],
    next_putShifted _, coded_of_dataProcessing (op := 2) rfl,
    next_putShifted _, coded_of_dataProcessing (op := 3) rfl,
    next_putShifted _, coded_of_dataProcessing (op := 4) rfl,
    next_putShifted _, coded_of_dataProcessing (op := 7) rfl,
    exec_lslsImm_zero rd rm s⟩

end Sys2Proof.Machine
end

section
/-! PROOF. The extensions and the byte reversals (43_move_mul_rev_extend_test.md R325 to R333), each with its encoding.
The idea: an extension is the conversion of a narrow number, a reversed word is four bytes in a row from which byte k is
read back, and both families share one format. -/

namespace Sys2Proof.Machine

open Sys2Proof.Claims

/-! ### Encodings -/

/-- Formats EXT and REV, told apart by bits [11:8] with the operation in bits [7:6] (30_encoding.md R156). -/
theorem coded_of_misc {kind op : Nat} {mk : LowReg → LowReg → Instr} {rd rm : LowReg} (hkind : kind < 16)
    (hop : op < 4)
    (h : ∀ w, bitsAt w 8 4 = kind → bitsAt w 6 2 = op → decodeMisc w = some (mk (field w 0 3) (field w 3 3))) :
    coded (0xB000 + kind * 256 + op * 64 + rm.toNat * 8 + rd.toNat) (mk rd rm) := by
  rw [coded, decodeTableWord_narrow (by omega)]
  generalize hw : 0xB000 + kind * 256 + op * 64 + rm.toNat * 8 + rd.toNat = w
  have hmajor : bitsAt w 11 5 = 22 ∨ bitsAt w 11 5 = 23 := by rw [bitsAt]; omega
  have hmisc : decode16 w = decodeMisc w := by rcases hmajor with hmajor | hmajor <;> simp only [decode16, hmajor]
  have hrd : field w 0 3 = rd := field_eq (by omega)
  have hrm : field w 3 3 = rm := field_eq (by omega)
  rw [hmisc, h w (by rw [bitsAt]; omega) (by rw [bitsAt]; omega), hrd, hrm]

/-! ### Extensions -/

theorem sextByte_eq_ofInt (v : Word) : sextByte v = BitVec.ofInt 32 (BitVec.ofNat 8 v.toNat).toInt := by
  rw [BitVec.ofNat_toNat]
  rfl

theorem sextHalf_eq_ofInt (v : Word) : sextHalf v = BitVec.ofInt 32 (BitVec.ofNat 16 v.toNat).toInt := by
  rw [BitVec.ofNat_toNat]
  rfl

theorem zextByte_eq_ofNat (v : Word) : zextByte v = BitVec.ofNat 32 (v.toNat % 2 ^ 8) := by
  rw [← BitVec.toNat_setWidth, BitVec.ofNat_toNat]
  rfl

theorem zextHalf_eq_ofNat (v : Word) : zextHalf v = BitVec.ofNat 32 (v.toNat % 2 ^ 16) := by
  rw [← BitVec.toNat_setWidth, BitVec.ofNat_toNat]
  rfl

/-- Settles O14: each form writes its extension, which is the number that the low byte or halfword stands for. -/
theorem extensionsWriteTheNumber : Obligations.ExtensionsWriteTheNumber := by
  intro s rd rm
  rw [← sextByte_eq_ofInt, ← sextHalf_eq_ofInt, ← zextByte_eq_ofNat, ← zextHalf_eq_ofNat]
  exact ⟨rfl, coded_of_misc (kind := 2) (op := 1) (mk := .sxtb) (by decide) (by decide) fun _ hk ho => by
      simp only [decodeMisc, hk, ho],
    rfl, coded_of_misc (kind := 2) (op := 0) (mk := .sxth) (by decide) (by decide) fun _ hk ho => by
      simp only [decodeMisc, hk, ho],
    rfl, coded_of_misc (kind := 2) (op := 3) (mk := .uxtb) (by decide) (by decide) fun _ hk ho => by
      simp only [decodeMisc, hk, ho],
    rfl, coded_of_misc (kind := 2) (op := 2) (mk := .uxth) (by decide) (by decide) fun _ hk ho => by
      simp only [decodeMisc, hk, ho]⟩

/-! ### Bytes in a row -/

/-- Above a byte in a row stand the bytes of the rest. -/
theorem extractByte_append_succ {w : Nat} (x : BitVec w) (b : Byte) (k : Nat) :
    (x ++ b).extractLsb' (8 * (k + 1)) 8 = x.extractLsb' (8 * k) 8 :=
  BitVec.extractLsb'_append_eq_of_le (by omega)

/-- Byte k of a word put together from four bytes. -/
theorem byteAt_append (b3 b2 b1 b0 : Byte) {k : Nat} (hk : k < 4) :
    byteAt (b3 ++ b2 ++ b1 ++ b0) k = [b0, b1, b2, b3][k] :=
  match k with
  | 0 => BitVec.extractLsb'_append_eq_right
  | 1 => (extractByte_append_succ _ b0 0).trans BitVec.extractLsb'_append_eq_right
  | 2 => (extractByte_append_succ _ b0 1).trans <| (extractByte_append_succ _ b1 0).trans
      BitVec.extractLsb'_append_eq_right
  | 3 => (extractByte_append_succ _ b0 2).trans <| (extractByte_append_succ _ b1 1).trans
      BitVec.extractLsb'_append_eq_left

/-- Sign extension keeps the bytes of a halfword. -/
theorem byteAt_signExtend (h : Half) {k : Nat} (hk : k < 2) :
    byteAt (h.signExtend 32) k = h.extractLsb' (8 * k) 8 := by
  ext i hi
  rw [byteAt, BitVec.getElem_extractLsb', BitVec.getElem_extractLsb', BitVec.getLsbD_signExtend,
    decide_eq_true (by omega), Bool.true_and, if_pos (by omega)]

/-- From bit 16 on an extended halfword repeats the top bit of its high byte. -/
theorem getLsbD_signExtend_append (b1 b0 : Byte) {i : Nat} (hlo : 16 ≤ i) (hhi : i < 32) :
    ((b1 ++ b0).signExtend 32).getLsbD i = b1.msb := by
  rw [BitVec.getLsbD_signExtend, decide_eq_true hhi, Bool.true_and, if_neg (by omega), BitVec.msb_append,
    if_neg (by decide)]

theorem msb_byteAt_zero (v : Word) : (byteAt v 0).msb = v.getLsbD 7 := by
  rw [BitVec.msb_eq_getLsbD_last, byteAt, BitVec.getLsbD_extractLsb']
  rfl

/-- The low bytes of an extended halfword are the two it was put together from. -/
theorem byteAt_signExtend_append (b1 b0 : Byte) :
    byteAt ((b1 ++ b0).signExtend 32) 0 = b0 ∧ byteAt ((b1 ++ b0).signExtend 32) 1 = b1 :=
  ⟨(byteAt_signExtend _ (by decide)).trans BitVec.extractLsb'_append_eq_right,
    (byteAt_signExtend _ (by decide)).trans BitVec.extractLsb'_append_eq_left⟩

/-! ### Reversals -/

theorem byteAt_reversed (v : Word) {k : Nat} (hk : k < 4) :
    byteAt (byteAt v 0 ++ byteAt v 1 ++ byteAt v 2 ++ byteAt v 3) k = byteAt v (3 - k) := by
  rw [byteAt_append _ _ _ _ hk]
  match k with
  | 0 | 1 | 2 | 3 => rfl

/-- Settles O15: each form writes a row of the source's bytes, from which they are read back one by one. -/
theorem reversalsPermuteBytes : Obligations.ReversalsPermuteBytes := by
  intro s rd rm
  let v := s.lo rm
  obtain ⟨hlow, hhigh⟩ := byteAt_signExtend_append (byteAt v 0) (byteAt v 1)
  have hpairs {k : Nat} (hk : k < 4) := byteAt_append (byteAt v 2) (byteAt v 3) (byteAt v 0) (byteAt v 1) hk
  exact ⟨byteAt v 0 ++ byteAt v 1 ++ byteAt v 2 ++ byteAt v 3, byteAt v 2 ++ byteAt v 3 ++ byteAt v 0 ++ byteAt v 1,
    (byteAt v 0 ++ byteAt v 1).signExtend 32,
    rfl, coded_of_misc (kind := 10) (op := 0) (mk := .rev) (by decide) (by decide) fun _ hk ho => by
      simp only [decodeMisc, hk, ho],
    fun _ => byteAt_reversed v,
    rfl, coded_of_misc (kind := 10) (op := 1) (mk := .rev16) (by decide) (by decide) fun _ hk ho => by
      simp only [decodeMisc, hk, ho],
    hpairs (k := 0) (by decide), hpairs (k := 1) (by decide), hpairs (k := 2) (by decide), hpairs (k := 3) (by decide),
    rfl, coded_of_misc (kind := 10) (op := 3) (mk := .revsh) (by decide) (by decide) fun _ hk ho => by
      simp only [decodeMisc, hk, ho],
    hlow, hhigh, fun _ hlo hhi => (getLsbD_signExtend_append _ _ hlo hhi).trans (msb_byteAt_zero v)⟩

end Sys2Proof.Machine
end
section
/-! PROOF. The branches, to a label and through a register (44_branch.md R350 to R355, 40_instruction_conventions.md
R196). The idea: discarding bit 0 is a division, an even target loses nothing by it, and setting bit 0 of an even link
adds 1. -/

namespace Sys2Proof.Machine

variable {s : State} {v w addr : Word}

/-! ### Even words -/

theorem halfAligned_eq_shift (v : Word) : halfAligned v = (v >>> 1) <<< 1 := by
  unfold halfAligned
  ext i hi
  simp only [BitVec.getElem_and, BitVec.getElem_shiftLeft]
  interval_cases i <;> simp

theorem halfAligned_eq_ofNat (v : Word) : halfAligned v = BitVec.ofNat 32 (v.toNat / 2 * 2) := by
  refine BitVec.eq_of_toNat_eq ?_
  rw [halfAligned_eq_shift, BitVec.toNat_shiftLeft, BitVec.toNat_ushiftRight, BitVec.toNat_ofNat, Nat.shiftLeft_eq,
    Nat.shiftRight_eq_div_pow, Nat.pow_one]

/-- An even value is halfword-aligned already. -/
theorem halfAligned_of_even (h : v.toNat % 2 = 0) : halfAligned v = v := by
  rw [halfAligned_eq_ofNat, Nat.div_mul_cancel (Nat.dvd_of_mod_eq_zero h), BitVec.ofNat_toNat, BitVec.setWidth_eq]

theorem even_add (hv : v.toNat % 2 = 0) (hw : w.toNat % 2 = 0) : (v + w).toNat % 2 = 0 := by
  rw [BitVec.toNat_add]
  omega

/-- Setting bit 0 of an even value adds 1. -/
theorem or_one_of_even (h : v.toNat % 2 = 0) : v ||| 1 = v + 1 := by
  have hbit : v &&& 1 = 0 := BitVec.eq_of_toNat_eq ((Nat.and_one_is_mod v.toNat).trans h)
  exact (BitVec.add_eq_or_of_and_eq_zero v 1 hbit).symm

/-! ### Branches to a label -/

theorem branchOffset_eq_ofInt {k : Nat} (off : BitVec k) : branchOffset off = BitVec.ofInt 32 (2 * off.toInt) := by
  rw [branchOffset, Int.mul_comm]

theorem branchOffset_even {k : Nat} (off : BitVec k) : (branchOffset off).toNat % 2 = 0 := by
  rw [branchOffset, BitVec.toNat_ofInt]
  omega

theorem State.pcAligned.pcOperand (h : s.pcAligned) : s.pcOperand.toNat % 2 = 0 := even_add h rfl

/-- From an even PC a branch to a label loses nothing of its target. -/
theorem halfAligned_label {k : Nat} (h : s.pcAligned) (off : BitVec k) :
    halfAligned (s.pcOperand + branchOffset off) = s.pc + 4 + BitVec.ofInt 32 (2 * off.toInt) := by
  rw [halfAligned_of_even (even_add h.pcOperand (branchOffset_even off)), branchOffset_eq_ofInt, State.pcOperand]

theorem branchTo_label {k : Nat} (h : s.pcAligned) (off : BitVec k) :
    s.branchTo (s.pcOperand + branchOffset off) = { s with pc := s.pc + 4 + BitVec.ofInt 32 (2 * off.toInt) } := by
  rw [State.branchTo, halfAligned_label h]

theorem exec_bCond_of_passes {cond : Cond} (hc : s.flags.passes cond = true) (imm8 : BitVec 8) :
    exec (.bCond cond imm8) s = .next (s.branchTo (s.pcOperand + branchOffset imm8)) := if_pos hc

theorem exec_bCond_of_fails {cond : Cond} (hc : s.flags.passes cond = false) (imm8 : BitVec 8) :
    exec (.bCond cond imm8) s = .next (s.advance 2) := if_neg (ne_true_of_eq_false hc)

theorem exec_bl (h : s.pcAligned) (off : BitVec 24) :
    exec (.bl off) s = .next { s with pc := s.pc + 4 + BitVec.ofInt 32 (2 * off.toInt), lr := s.pc + 4 + 1 } := by
  have hlink : s.pcOperand ||| 1 = s.pc + 4 + 1 := or_one_of_even h.pcOperand
  calc exec (.bl off) s
      = .next { s with pc := halfAligned (s.pcOperand + branchOffset off), lr := s.pcOperand ||| 1 } := rfl
    _ = _ := by rw [halfAligned_label h, hlink]

/-- Settles O18: the target is even, so discarding its bit 0 changes nothing, and so is the link before its bit 0 is
set. -/
theorem branchesReachTheirTarget : Obligations.BranchesReachTheirTarget := by
  intro s imm11 imm8 off cond hpc
  refine ⟨?b, fun hpass => ?taken, fun hfail => ?notTaken, exec_bl hpc off⟩
  case b => exact congrArg _ (branchTo_label hpc imm11)
  case taken => rw [exec_bCond_of_passes hpass, branchTo_label hpc]
  case notTaken => exact exec_bCond_of_fails hfail imm8

/-! ### Branches through a register -/

theorem branchTo_eq (s : State) (addr : Word) :
    s.branchTo addr = { s with pc := BitVec.ofNat 32 (addr.toNat / 2 * 2) } := by
  rw [State.branchTo, halfAligned_eq_ofNat]

theorem interwork_eq (s : State) (addr : Word) :
    s.interwork addr = { s with pc := BitVec.ofNat 32 (addr.toNat / 2 * 2), thumb := addr.getLsbD 0 } := by
  rw [State.interwork, halfAligned_eq_ofNat]

/-- The values with bits [31:28] all ones are the greatest ones. -/
theorem excReturnLike_iff (addr : Word) : excReturnLike addr = true ↔ 0xF0000000 ≤ addr.toNat := by
  rw [excReturnLike, beq_iff_eq, ← BitVec.toNat_inj, BitVec.extractLsb'_toNat, Nat.shiftRight_eq_div_pow,
    BitVec.toNat_ofNat]
  omega

/-- Where BX and BLX branch: in Thread mode, or to a value without the mark of an EXC_RETURN value. -/
theorem returnGuard_eq_false (h : s.ipsr = 0 ∨ addr.toNat < 0xF0000000) :
    (!s.threadMode && excReturnLike addr) = false := by
  rcases h with hthread | hplain
  · simp [State.threadMode, hthread]
  · have hmark : excReturnLike addr = false := by
      rw [Bool.eq_false_iff, ne_eq, excReturnLike_iff]
      omega
    rw [hmark, Bool.and_false]

theorem bxWritePc_of_branch (h : s.ipsr = 0 ∨ addr.toNat < 0xF0000000) :
    bxWritePc addr s = .next (s.interwork addr) :=
  if_neg (ne_true_of_eq_false (returnGuard_eq_false h))

theorem blxWritePc_of_branch (h : s.ipsr = 0 ∨ addr.toNat < 0xF0000000) :
    blxWritePc addr s = .next (s.interwork addr) :=
  if_neg (ne_true_of_eq_false (returnGuard_eq_false h))

theorem exec_movHigh_pc (rm : Reg) (s : State) : exec (.movHigh 15 rm) s = .next (s.branchTo (s.x rm)) := rfl

theorem exec_addHigh_pc {rm : Reg} (h : rm ≠ 15) (s : State) :
    exec (.addHigh 15 rm) s = .next (s.branchTo (s.pc + 4 + s.x rm)) := if_neg fun hboth => h hboth.2

theorem exec_bx {rm : Reg} (h13 : rm ≠ 13) (h15 : rm ≠ 15) (s : State) :
    exec (.bx rm sbBranch) s = bxWritePc (s.x rm) s := if_neg (not_or_intro h13 h15)

theorem exec_blx {rm : Reg} (h13 : rm ≠ 13) (h15 : rm ≠ 15) (s : State) :
    exec (.blx rm sbBranch) s = blxWritePc (s.x rm) (s.setLr ((s.pc + 2) ||| 1)) := if_neg (not_or_intro h13 h15)

/-- Settles O20: each form writes the PC without the value's bit 0; BX and BLX are no exception return here, and the
link of BLX is even before its bit 0 is set. -/
theorem registerBranchesReachTheirTarget : Obligations.RegisterBranchesReachTheirTarget := by
  intro s rm
  refine ⟨?mov, fun h15 => ?add, fun h13 h15 hbranch => ⟨?bx, fun hpc => ?blx⟩⟩
  case mov => rw [exec_movHigh_pc, branchTo_eq]
  case add => rw [exec_addHigh_pc h15, branchTo_eq]
  case bx => rw [exec_bx h13 h15, bxWritePc_of_branch hbranch, interwork_eq]
  case blx =>
    have hlink : (s.pc + 2) ||| 1 = s.pc + 2 + 1 := or_one_of_even (even_add hpc rfl)
    rw [exec_blx h13 h15, hlink, blxWritePc_of_branch (s := s.setLr (s.pc + 2 + 1)) hbranch, interwork_eq]
    rfl

end Sys2Proof.Machine
end

section
/-! PROOF. The exception to be taken (60_exceptions.md R407, R410) and what the other agents do to the interrupt
controller (R440, R450): among the exceptions that wait none has a lower priority number than the candidate, and the
agents only ever add to what waits. -/

namespace Sys2Proof.Machine

open Sys2Proof.Claims

variable {s t : State} {v w x : Nvic} {n m k : Nat} {ra : Word}

/-! ### Bits -/

theorem getLsbD_bitMask {l : Nat} (hi : n < l) : (bitMask l k).getLsbD n = decide (k = n) := by
  rw [bitMask, BitVec.getLsbD_ofNat, decide_eq_true hi, Bool.true_and, Nat.testBit_two_pow]

theorem getLsbD_setBit {l : Nat} (b : BitVec l) (hi : n < l) :
    (setBit b k).getLsbD n = (b.getLsbD n || decide (k = n)) := by
  rw [setBit, BitVec.getLsbD_or, getLsbD_bitMask hi]

theorem getLsbD_clearBit {l : Nat} (b : BitVec l) (hi : n < l) :
    (clearBit b k).getLsbD n = (b.getLsbD n && !decide (k = n)) := by
  rw [clearBit, BitVec.getLsbD_and, BitVec.getLsbD_not, getLsbD_bitMask hi, decide_eq_true hi, Bool.true_and]

/-- Bit m of a word of interrupts stands for exception 16 + m. -/
theorem getLsbD_irqBits (b : BitVec 48) (hm : m < 32) : (irqBits b).getLsbD m = b.getLsbD (16 + m) := by
  rw [irqBits, BitVec.getLsbD_ofNat, decide_eq_true hm, Bool.true_and, Nat.testBit_div_two_pow, Nat.add_comm]
  rfl

theorem getLsbD_ofIrqBits (b : BitVec 32) (hm : m < 32) : (ofIrqBits b).getLsbD (16 + m) = b.getLsbD m := by
  rw [ofIrqBits, BitVec.getLsbD_ofNat, decide_eq_true (by omega), Bool.true_and, Nat.testBit_mul_two_pow,
    Nat.add_sub_cancel_left, decide_eq_true (by omega), Bool.true_and]
  rfl

/-! ### The exception to be taken -/

/-- The first of a list is one of it, and none of the list has a lower priority number. -/
theorem Nvic.first_of_mem {l : List Nat} (h : m ∈ l) :
    ∃ n ∈ l, v.first l = some n ∧ ∀ j ∈ l, v.priority n ≤ v.priority j := by
  induction l generalizing m with
  | nil => cases h
  | cons a l ih =>
    rcases l with _ | ⟨b, l⟩
    · exact ⟨a, by simp, rfl, by simp⟩
    · obtain ⟨n, hn, hfirst, hleast⟩ := ih (List.mem_cons_self (a := b) (l := l))
      rw [Nvic.first, hfirst]
      dsimp only
      split
      case isTrue hlt =>
        refine ⟨n, List.mem_cons_of_mem a hn, rfl, fun j hj => ?_⟩
        rcases List.mem_cons.mp hj with rfl | hj
        · exact hlt.le
        · exact hleast j hj
      case isFalse hle =>
        refine ⟨a, List.mem_cons_self, rfl, fun j hj => ?_⟩
        rcases List.mem_cons.mp hj with rfl | hj
        · exact le_rfl
        · exact (not_lt.mp hle).trans (hleast j hj)

theorem Nvic.mem_waiting :
    n ∈ v.waiting ↔ n ∈ exceptionNumbers ∧ v.pending.getLsbD n = true ∧ v.enabled n = true := by
  rw [Nvic.waiting, List.mem_filter, Bool.and_eq_true]

theorem lt_of_mem_exceptionNumbers (h : n ∈ exceptionNumbers) : n < 48 := by
  have hall : ∀ n ∈ exceptionNumbers, n < 48 := by decide
  exact hall n h

theorem irq_mem_exceptionNumbers (hm : m < 32) : 16 + m ∈ exceptionNumbers := by
  have hall : ∀ m < 32, 16 + m ∈ exceptionNumbers := by decide
  exact hall m hm

/-- Where an exception waits above the execution priority, one is to be taken, of that exception's priority or above. -/
theorem State.preempting_of_waiting (hm : m ∈ s.nvic.waiting) (hp : s.nvic.priority m < s.execPriority) :
    ∃ n ∈ s.nvic.waiting, s.preempting = some n ∧ s.nvic.priority n ≤ s.nvic.priority m := by
  obtain ⟨n, hn, hfirst, hleast⟩ := Nvic.first_of_mem (v := s.nvic) hm
  refine ⟨n, hn, ?_, hleast m hm⟩
  rw [State.preempting, Nvic.candidateAbove, Nvic.candidate, hfirst]
  exact if_pos ((hleast m hm).trans_lt hp)

/-! ### What sampling does to the interrupt controller -/

/-- Exceptions may have become pending, and the remembered levels of the lines may differ; nothing else does. -/
structure Nvic.OnlyPends (v w : Nvic) : Prop where
  frame : w = { v with pending := w.pending, linePrev := w.linePrev }
  kept : ∀ k, v.pending.getLsbD k = true → w.pending.getLsbD k = true

namespace Nvic.OnlyPends

theorem refl (v : Nvic) : v.OnlyPends v := ⟨rfl, fun _ h => h⟩

theorem trans (h : v.OnlyPends w) (h' : w.OnlyPends x) : v.OnlyPends x where
  frame := by rw [h'.frame, h.frame]
  kept k hk := h'.kept k (h.kept k hk)

/-- Setting more pending bits, whatever the lines are remembered as. -/
theorem of_or (v : Nvic) (b : BitVec 48) (lines : BitVec 32) :
    v.OnlyPends { v with pending := v.pending ||| b, linePrev := lines } where
  frame := rfl
  kept k hk := by rw [BitVec.getLsbD_or, hk, Bool.true_or]

theorem priority (h : v.OnlyPends w) (n : Nat) : w.priority n = v.priority n := by
  rw [h.frame]
  rfl

theorem active (h : v.OnlyPends w) : w.active = v.active := by rw [h.frame]

theorem activePriority (h : v.OnlyPends w) : w.activePriority = v.activePriority := by
  rw [h.frame]
  rfl

theorem enabled (h : v.OnlyPends w) (n : Nat) : w.enabled n = v.enabled n := by
  rw [h.frame]
  rfl

/-- What waited waits still. -/
theorem waiting (h : v.OnlyPends w) (hn : n ∈ v.waiting) : n ∈ w.waiting := by
  rw [Nvic.mem_waiting] at hn ⊢
  obtain ⟨hmem, hpend, hen⟩ := hn
  exact ⟨hmem, h.kept n hpend, (h.enabled n).trans hen⟩

end Nvic.OnlyPends

theorem sampleLines_onlyPends (s : State) (lines : BitVec 32) : s.nvic.OnlyPends (s.sampleLines lines).nvic :=
  .of_or s.nvic _ lines

theorem count_onlyPends (s : State) : s.nvic.OnlyPends s.count.nvic := by
  unfold State.count
  split
  · exact .refl s.nvic
  · split
    · dsimp only
      split
      · exact .of_or s.nvic (bitMask 48 excSysTick) s.nvic.linePrev
      · exact .refl s.nvic
    · exact .refl s.nvic

theorem ticks_onlyPends (s : State) (n : Nat) : s.nvic.OnlyPends (s.ticks n).nvic := by
  induction n generalizing s with
  | zero => exact .refl s.nvic
  | succ n ih =>
    have htick : s.nvic.OnlyPends s.tick.nvic := by
      unfold State.tick
      split
      · exact count_onlyPends s
      · exact .refl s.nvic
    exact htick.trans (ih s.tick)

theorem agentSteps_onlyPends (s : State) (as : List AgentStep) : s.nvic.OnlyPends (s.agentSteps as).nvic := by
  induction as generalizing s with
  | nil => exact .refl s.nvic
  | cons a as ih =>
    have hstep : s.nvic.OnlyPends (s.agentStep a).nvic := by
      cases a with
      | ticks n => exact ticks_onlyPends s n
      | sampled lines => exact sampleLines_onlyPends s lines
      | externalEvent => exact .refl s.nvic
    exact hstep.trans (ih (s.agentStep a))

theorem takeSample_onlyPends (s : State) (sm : Sample) : s.nvic.OnlyPends (s.takeSample sm).nvic :=
  (agentSteps_onlyPends s sm.steps).trans (sampleLines_onlyPends _ sm.lines)

theorem interrupted_onlyPends (s : State) : s.nvic.OnlyPends s.interrupted.nvic := by
  unfold State.interrupted
  split
  · exact takeSample_onlyPends s _
  · exact .refl s.nvic

theorem interrupted_of_mid_none (h : s.env.mid = none) : s.interrupted = s := by rw [State.interrupted, h]

theorem interrupted_of_mid_some {ms : MidSample} (h : s.env.mid = some ms) :
    s.interrupted = s.takeSample ms.sample := by rw [State.interrupted, h]

/-- What is sampled inside an instruction leaves the execution priority. -/
theorem execPriority_interrupted (s : State) : s.interrupted.execPriority = s.execPriority := by
  rw [State.execPriority, State.execPriority, (interrupted_sameCore s).1.primask,
    (interrupted_onlyPends s).activePriority]

/-- An asserted line leaves its interrupt pending, if it is not active (60_exceptions.md R440). -/
theorem sampleLines_pending {lines : BitVec 32} (hm : m < 32) (hline : lines.getLsbD m = true)
    (hact : s.nvic.active.getLsbD (16 + m) = false) :
    (s.sampleLines lines).nvic.pending.getLsbD (16 + m) = true := by
  change (s.nvic.pending ||| ofIrqBits (s.nvic.latched lines)).getLsbD (16 + m) = true
  rw [BitVec.getLsbD_or, getLsbD_ofIrqBits _ hm, Nvic.latched]
  simp only [BitVec.getLsbD_or, BitVec.getLsbD_and, BitVec.getLsbD_not, getLsbD_irqBits _ hm, hline, hact, hm]
  cases s.nvic.pending.getLsbD (16 + m) <;> simp

/-! ### The agents do not look at the PC -/

theorem tick_advance (s : State) (k : Nat) : (s.advance k).tick = s.tick.advance k := by
  simp only [State.tick, State.count, apply_ite (State.advance · k)]
  rfl

theorem ticks_advance (s : State) (k n : Nat) : (s.advance k).ticks n = (s.ticks n).advance k := by
  induction n generalizing s with
  | zero => rfl
  | succ n ih => rw [State.ticks, tick_advance, ih, State.ticks]

theorem agentSteps_advance (s : State) (k : Nat) (as : List AgentStep) :
    (s.advance k).agentSteps as = (s.agentSteps as).advance k := by
  induction as generalizing s with
  | nil => rfl
  | cons a as ih =>
    have hstep : (s.advance k).agentStep a = (s.agentStep a).advance k := by
      cases a with
      | ticks n => exact ticks_advance s k n
      | sampled | externalEvent => rfl
    rw [State.agentSteps, hstep, ih, State.agentSteps]

theorem interrupted_advance (s : State) (k : Nat) : (s.advance k).interrupted = s.interrupted.advance k := by
  cases hmid : s.env.mid with
  | none => rw [interrupted_of_mid_none hmid, interrupted_of_mid_none (s := s.advance k) hmid]
  | some ms =>
    rw [interrupted_of_mid_some hmid, interrupted_of_mid_some (s := s.advance k) hmid, State.takeSample,
      agentSteps_advance]
    rfl

theorem State.x_advance {r : Reg} (h : r ≠ 15) (s : State) (k : Nat) : (s.advance k).x r = s.x r := by
  rw [State.x, State.x, if_neg h, if_neg h]
  rfl

/-- That the PC was moved on before an exception was taken shows nowhere after its entry, its return address aside. -/
theorem entered_of_advance (h : entered n ra (s.advance k) t) : entered n ra s t := by
  obtain ⟨hmsp, hpsp, h0, h1, h2, h3, h4, h5, h6, h7, hout, hipsr, hspsel, hlr, hrun, hpc, hthumb, hnvic, hx,
    hrest⟩ := h
  refine ⟨hmsp, hpsp, h0, h1, h2, h3, h4, h5, h6, h7, hout, hipsr, hspsel, hlr, hrun, hpc, hthumb, hnvic,
    fun r hlo hhi => ?_, hrest⟩
  rw [hx r hlo hhi, State.x_advance (by rintro rfl; exact absurd hhi (by decide))]

end Sys2Proof.Machine
end

section
/-! PROOF. SVC, and the instructions that raise a fault (45_miscellaneous.md R370, R383; 30_encoding.md R160). The idea:
once SVCall is pending at a priority above the execution priority something is to be taken, at SVCall's priority or
above, whatever is sampled meanwhile. -/

namespace Sys2Proof.Machine

open Sys2Proof.Claims

variable {s t : State} {n m : Nat} {ra : Word}

/-! ### Instructions that fault -/

theorem raiseHardFault_lockUp (c : FaultCause) (h : s.execPriority ≤ -1) :
    raiseHardFault c s = .next { s with run := .lockup } := if_pos h

theorem takesHardFault_of_raise {i : Instr} {c : FaultCause} (h : exec i s = raiseHardFault c s)
    (hp : -1 < s.execPriority) (he : canEnter 3 s) : takesHardFault i s := by
  rw [takesHardFault, h]
  exact raiseHardFault_entered c hp he

theorem faults_of_raise {i : Instr} {c : FaultCause} (h : exec i s = raiseHardFault c s) : faults i s :=
  ⟨takesHardFault_of_raise h, fun hp => by rw [h, raiseHardFault_lockUp c hp]⟩

theorem exec_udf (imm8 : BitVec 8) (s : State) : exec (.udf imm8) s = raiseHardFault .undefinedInstruction s := rfl

theorem exec_udfW (imm16 : BitVec 16) (s : State) : exec (.udfW imm16) s = raiseHardFault .undefinedInstruction s := rfl

theorem exec_bkpt_of_no_debugger (h : s.platform.debugger = false) (imm8 : BitVec 8) :
    exec (.bkpt imm8) s = raiseHardFault .bkptNoDebugger s := if_neg (ne_true_of_eq_false h)

theorem exec_bkpt_of_debugger (h : s.platform.debugger = true) (imm8 : BitVec 8) :
    exec (.bkpt imm8) s = .refused .debugState := if_pos h

/-- Settles O33: UDF, UDF.W, and BKPT where no debugger takes it, each raise HardFault and do nothing else. -/
theorem faultingInstructionsTakeHardFault : Obligations.FaultingInstructionsTakeHardFault := by
  intro s imm8 imm16
  obtain ⟨hudf, hudfLock⟩ := faults_of_raise (exec_udf imm8 s)
  obtain ⟨hudfW, hudfWLock⟩ := faults_of_raise (exec_udfW imm16 s)
  have hbkpt (h : s.platform.debugger = false) := faults_of_raise (exec_bkpt_of_no_debugger h imm8)
  refine ⟨fun hp he => ⟨hudf hp he, hudfW hp he, fun h => ?enters⟩,
    fun hp => ⟨hudfLock hp, hudfWLock hp, fun h => ?locks⟩, fun h => exec_bkpt_of_debugger h imm8⟩
  case enters => exact (hbkpt h).1 hp he
  case locks => exact (hbkpt h).2 hp

/-! ### SVC -/

theorem exec_svc_of_le (h : s.execPriority ≤ s.nvic.priority 11) (imm8 : BitVec 8) :
    exec (.svc imm8) s = raiseHardFault .svcPriority s := if_pos h

/-- Where SVCall may be taken, what is to be taken once the interruption is sampled is taken at once. -/
theorem exec_svc_of_lt (h : s.nvic.priority 11 < s.execPriority) (hn : (s.pend 11).interrupted.preempting = some n)
    (imm8 : BitVec 8) :
    exec (.svc imm8) s = takeException n (s.pc + 2) ((s.pend 11).interrupted.advance 2) := by
  have hpre : ((s.pend 11).interrupted.advance 2).preempting = some n := hn
  have hpc : ((s.pend 11).interrupted.advance 2).pc = s.pc + 2 := by
    rw [State.advance_pc, (interrupted_sameCore (s.pend 11)).1.pc]
    rfl
  change execSvc imm8 s = _
  rw [execSvc, excSvCall, if_neg (not_le.mpr h)]
  simp only [interrupted_advance, hpre, hpc]

theorem exec_svc_entered (h : s.nvic.priority 11 < s.execPriority)
    (hn : (s.pend 11).interrupted.preempting = some n) (he : canEnter n (s.pend 11).interrupted) (imm8 : BitVec 8) :
    ∃ t, exec (.svc imm8) s = .next t ∧ entered n (s.pc + 2) (s.pend 11).interrupted t := by
  obtain ⟨t, ht, hent⟩ := takeException_entered (s := (s.pend 11).interrupted.advance 2) (ra := s.pc + 2) he
  exact ⟨t, by rw [exec_svc_of_lt h hn, ht], entered_of_advance hent⟩

/-- SVCall waits once it is made pending: it has no enable bit. -/
theorem svCall_waiting_pend (s : State) : 11 ∈ (s.pend 11).nvic.waiting := by
  have hpend : (setBit s.nvic.pending 11).getLsbD 11 = true := by
    rw [getLsbD_setBit _ (by decide), decide_eq_true rfl, Bool.or_true]
  exact Nvic.mem_waiting.mpr ⟨by decide, hpend, rfl⟩

theorem waiting_of_waiting_pend (hn : n ∈ (s.pend m).nvic.waiting) (hne : m ≠ n) : n ∈ s.nvic.waiting := by
  obtain ⟨hmem, hpend, hen⟩ := Nvic.mem_waiting.mp hn
  have hbit : (setBit s.nvic.pending m).getLsbD n = true := hpend
  rw [getLsbD_setBit _ (lt_of_mem_exceptionNumbers hmem), decide_eq_false hne, Bool.or_false] at hbit
  exact Nvic.mem_waiting.mpr ⟨hmem, hbit, hen⟩

/-- With nothing else to be taken, SVCall is. -/
theorem svCall_preempts (hp : s.nvic.priority 11 < s.execPriority) (hnone : s.preempting = none) :
    (s.pend 11).preempting = some 11 := by
  obtain ⟨n, hn, hpre, hle⟩ := State.preempting_of_waiting (svCall_waiting_pend s) hp
  by_cases hne : 11 = n
  · rw [hpre, hne]
  · obtain ⟨j, -, hj, -⟩ := State.preempting_of_waiting (waiting_of_waiting_pend hn hne) (hle.trans_lt hp)
    rw [hnone] at hj
    cases hj

theorem entered_nvic (h : entered n ra s t) :
    t.nvic = { s.nvic with pending := clearBit s.nvic.pending n, active := setBit s.nvic.active n } := by
  obtain ⟨-, -, -, -, -, -, -, -, -, -, -, -, -, -, -, -, -, hnvic, -⟩ := h
  exact hnvic

/-- What was pending and is not the exception entered is pending still. -/
theorem entered_keeps_pending (h : entered n ra s t) (hm : m < 48) (hne : n ≠ m)
    (hpend : s.nvic.pending.getLsbD m = true) : t.nvic.pending.getLsbD m = true := by
  have hbit : t.nvic.pending = clearBit s.nvic.pending n := by rw [entered_nvic h]
  rw [hbit, getLsbD_clearBit _ hm, hpend, decide_eq_false hne]
  rfl

/-- An interrupt whose line is sampled asserted while SVC runs waits then, if it is enabled and not active. -/
theorem irq_waiting_of_sampled {ms : MidSample} (hmid : s.env.mid = some ms) (hm : m < 32)
    (hline : ms.sample.lines.getLsbD m = true) (hen : s.nvic.enable.getLsbD m = true)
    (hact : s.nvic.active.getLsbD (16 + m) = false) : 16 + m ∈ s.interrupted.nvic.waiting := by
  have hkeep := agentSteps_onlyPends s ms.sample.steps
  refine Nvic.mem_waiting.mpr ⟨irq_mem_exceptionNumbers hm, ?_, ?_⟩
  · rw [interrupted_of_mid_some hmid]
    exact sampleLines_pending hm hline (by rw [hkeep.active, hact])
  · rw [(interrupted_onlyPends s).enabled, Nvic.enabled, Nat.add_sub_cancel_left, hen, Bool.or_true]

/-- Settles O32: once SVCall is pending, what is to be taken has its priority or a higher one, and it is SVCall where
nothing else was to be taken and nothing is sampled. -/
theorem supervisorCallTakesSVCall : Obligations.SupervisorCallTakesSVCall := by
  intro s imm8 u
  have hkeep : (s.pend 11).nvic.OnlyPends u.nvic := interrupted_onlyPends (s.pend 11)
  have hprio (j : Nat) : u.nvic.priority j = s.nvic.priority j := hkeep.priority j
  have hexec : u.execPriority = s.execPriority := execPriority_interrupted (s.pend 11)
  have hsvc : 11 ∈ u.nvic.waiting := hkeep.waiting (svCall_waiting_pend s)
  obtain ⟨-, hpend, -⟩ := Nvic.mem_waiting.mp hsvc
  refine ⟨fun hp => ⟨fun hmid hnone he => ?alone, ?candidate, fun ms m hmid hm hline hen hact hlt heq => ?late⟩,
    fun hp => faults_of_raise (exec_svc_of_le hp imm8)⟩
  case alone =>
    have hu : (s.pend 11).interrupted = s.pend 11 := interrupted_of_mid_none (s := s.pend 11) hmid
    have hpre : (s.pend 11).interrupted.preempting = some 11 := by rw [hu, svCall_preempts hp hnone]
    have hcan : canEnter 11 (s.pend 11).interrupted := by
      rw [hu]
      exact he
    obtain ⟨t, ht, hent⟩ := exec_svc_entered hp hpre hcan imm8
    rw [hu] at hent
    exact ⟨t, ht, entered_of_pend hent⟩
  case candidate =>
    obtain ⟨n, -, hpre, -⟩ := State.preempting_of_waiting hsvc (by rwa [hprio, hexec])
    refine ⟨n, hpre, fun he => ?_⟩
    obtain ⟨t, ht, hent⟩ := exec_svc_entered hp hpre he imm8
    exact ⟨t, ht, hent, fun hne => entered_keeps_pending hent (by decide) hne hpend⟩
  case late =>
    have hirq : 16 + m ∈ u.nvic.waiting := irq_waiting_of_sampled (s := s.pend 11) hmid hm hline hen hact
    obtain ⟨n, -, hpre, hle⟩ := State.preempting_of_waiting hirq (by rw [hprio, hexec]; exact hlt.trans hp)
    rw [heq, Option.some.injEq] at hpre
    rw [← hpre, hprio, hprio] at hle
    exact hle.not_gt hlt

end Sys2Proof.Machine
end

section
/-! PROOF. MRS and MSR (45_miscellaneous.md R378 to R380). The idea: what MRS reads is known on a mask and nothing
outside it, so mixing free values into the other bits leaves the known ones. -/

namespace Sys2Proof.Machine

open Sys2Proof.Claims

variable {s : State} {rd rn m : Reg} {sysm : BitVec 8} {reg : SpecReg} {v : Word}

/-! ### Registers after one is written -/

theorem State.setX_of_ne_sp (h : rd ≠ 13) (s : State) (v : Word) :
    s.setX rd v = { s with r := s.r.setIfInBounds rd.toNat v, lr := if rd = 14 then v else s.lr } := by
  rw [State.setX, if_neg fun hboth => h hboth.1, if_neg fun hboth => h hboth.1]

theorem toNat_lt_of_ne {r : Reg} (h13 : r ≠ 13) (h14 : r ≠ 14) (h15 : r ≠ 15) : r.toNat < 13 := by bv_omega

theorem State.x_setX_self (h13 : rd ≠ 13) (h15 : rd ≠ 15) (s : State) (v : Word) : (s.setX rd v).x rd = v := by
  by_cases h14 : rd = 14
  · subst h14
    rfl
  · have hlt := toNat_lt_of_ne h13 h14 h15
    rw [State.x_of_lt _ rd hlt, State.setX_r, regs_getD_set, if_pos ⟨rfl, hlt⟩]

theorem State.x_setX_of_ne (h13 : rd ≠ 13) (hm : m ≠ rd) (s : State) (v : Word) : (s.setX rd v).x m = s.x m := by
  by_cases h : m = 13 ∨ m = 14 ∨ m = 15
  · rw [State.setX_of_ne_sp h13]
    rcases h with rfl | rfl | rfl
    case inl | inr.inr => rfl
    case inr.inl => exact if_neg hm.symm
  · simp only [not_or] at h
    obtain ⟨hm13, hm14, hm15⟩ := h
    have hlt := toNat_lt_of_ne hm13 hm14 hm15
    rw [State.x_of_lt _ m hlt, State.x_of_lt _ m hlt, State.setX_r, regs_getD_set,
      if_neg fun hboth => hm (BitVec.eq_of_toNat_eq hboth.1)]

/-! ### What MRS reads -/

/-- The known bits of a mixed value are those of its known part. -/
theorem mixFree_and_mask (known mask free : Word) : mixFree known mask free &&& mask = known &&& mask := by
  ext i hi
  simp only [mixFree, BitVec.getElem_and, BitVec.getElem_or, BitVec.getElem_not]
  cases mask[i] <;> simp

/-- The value has no bit outside the mask. -/
def BitsWithin (v mask : Word) : Prop := v &&& mask = v

theorem BitsWithin.eq {mask : Word} (h : BitsWithin v mask) : v &&& mask = v := h

theorem BitsWithin.or {w mask mask' : Word} (hv : BitsWithin v mask) (hw : BitsWithin w mask') :
    BitsWithin (v ||| w) (mask ||| mask') := by
  rw [BitsWithin, ← hv.eq, ← hw.eq]
  ext i hi
  simp only [BitVec.getElem_and, BitVec.getElem_or]
  cases mask[i] <;> cases mask'[i] <;> simp

theorem bitsWithin_zero (mask : Word) : BitsWithin 0#32 mask := BitVec.zero_and

theorem bitsWithin_ones (v : Word) : BitsWithin v 0xFFFFFFFF#32 := BitVec.and_allOnes

theorem flagBits_bitsWithin (b : BitVec 4) : BitsWithin (b ++ 0#28) 0xF0000000#32 := by
  revert b
  unfold BitsWithin
  decide

theorem exceptionNumber_bitsWithin (b : BitVec 6) : BitsWithin (b.setWidth 32) 0x0000003F#32 := by
  revert b
  unfold BitsWithin
  decide

theorem psrBits_bitsWithin (s : State) (apsr epsr ipsr : Bool) :
    BitsWithin (s.psrBits apsr ipsr) (psrMask apsr epsr ipsr) := by
  have hflags : BitsWithin (if apsr then s.flags.bits ++ 0#28 else 0#32) (if apsr then 0xF0000000#32 else 0#32) := by
    cases apsr
    · exact bitsWithin_zero 0
    · exact flagBits_bitsWithin s.flags.bits
  have hnumber : BitsWithin (if ipsr then s.ipsr.setWidth 32 else 0#32) (if ipsr then 0x0000003F#32 else 0#32) := by
    cases ipsr
    · exact bitsWithin_zero 0
    · exact exceptionNumber_bitsWithin s.ipsr
  have h := (hflags.or (bitsWithin_zero (if epsr then 0x01000000#32 else 0#32))).or hnumber
  rwa [BitVec.or_zero] at h

/-- Every special register reads with no bit outside its stated ones. -/
theorem specRead_bitsWithin (s : State) (reg : SpecReg) : BitsWithin (s.specRead reg).1 (s.specRead reg).2 := by
  cases reg with
  | apsr | iapsr | eapsr | psr | ipsr | iepsr => exact psrBits_bitsWithin s _ _ _
  | epsr => exact bitsWithin_zero _
  | msp => exact bitsWithin_ones s.msp
  | psp => exact bitsWithin_ones s.psp
  | primask => rw [State.specRead]; cases s.primask <;> rfl
  | control => rw [State.specRead]; cases s.threadMode && s.spsel <;> rfl

theorem flagBits_eq (f : Flags) :
    f.bits ++ 0#28 = bitWord f.n 31 ||| bitWord f.z 30 ||| bitWord f.c 29 ||| bitWord f.v 28 := by
  obtain ⟨n, z, c, v⟩ := f
  revert n z c v
  decide

/-- The bits that the statements call stated are those the model reads. -/
theorem stated_eq_specRead (h : sysm ∈ sysmNames) (s : State) :
    ∃ reg, specRegOf sysm = some reg ∧ stated s sysm.toNat = s.specRead reg := by
  have hflags : s.psrBits true false =
      bitWord s.flags.n 31 ||| bitWord s.flags.z 30 ||| bitWord s.flags.c 29 ||| bitWord s.flags.v 28 := by
    rw [← flagBits_eq]
    exact BitVec.or_zero
  have hboth : s.psrBits true true = s.psrBits true false ||| s.ipsr.setWidth 32 := by
    rw [hflags, ← flagBits_eq]
    rfl
  have hnumber : s.psrBits false true = s.ipsr.setWidth 32 := BitVec.zero_or
  simp only [sysmNames, List.mem_cons, List.not_mem_nil, or_false] at h
  rcases h with rfl | rfl | rfl | rfl | rfl | rfl | rfl | rfl | rfl | rfl | rfl
  · exact ⟨.apsr, rfl, by rw [State.specRead, hflags]; rfl⟩
  · exact ⟨.iapsr, rfl, by rw [State.specRead, hboth, hflags]; rfl⟩
  · exact ⟨.eapsr, rfl, by rw [State.specRead, hflags]; rfl⟩
  · exact ⟨.psr, rfl, by rw [State.specRead, hboth, hflags]; rfl⟩
  · exact ⟨.ipsr, rfl, by rw [State.specRead, hnumber]; rfl⟩
  · exact ⟨.epsr, rfl, rfl⟩
  · exact ⟨.iepsr, rfl, by rw [State.specRead, hnumber]; rfl⟩
  · exact ⟨.msp, rfl, rfl⟩
  · exact ⟨.psp, rfl, rfl⟩
  · exact ⟨.primask, rfl, congrArg (·, 1#32) (BitVec.shiftLeft_zero (boolWord s.primask))⟩
  · exact ⟨.control, rfl, by rw [State.specRead, Bool.and_comm]; rfl⟩

/-! ### MRS -/

theorem exec_mrs (h13 : rd ≠ 13) (h15 : rd ≠ 15) (h : specRegOf sysm = some reg) (s : State) :
    exec (.mrs rd sysm sbMrs) s =
      .next (((s.drawn 1).setX rd (mixFree (s.specRead reg).1 (s.specRead reg).2 s.freeValue)).advance 4) := by
  change execMrs rd sysm sbMrs s = _
  rw [execMrs, if_neg (not_not.mpr rfl), if_neg (not_or_intro h13 h15), h]

theorem mrsWrote_setX (h : rd ≠ 13) (s : State) (v : Word) : mrsWrote s (((s.drawn 1).setX rd v).advance 4) rd := by
  refine ⟨?frame, fun m hm h15 => ?others⟩
  case frame =>
    rw [State.setX_of_ne_sp h]
    rfl
  case others =>
    rw [State.x_advance h15, State.x_setX_of_ne h hm]
    rfl

/-- Settles O46: the value written has the stated bits as the model reads them, and free values elsewhere. -/
theorem mrsReadsTheStatedBits : Obligations.MrsReadsTheStatedBits := by
  intro s rd sysm h13 h15 hname
  obtain ⟨reg, hreg, hstated⟩ := stated_eq_specRead hname s
  refine ⟨_, exec_mrs h13 h15 hreg s, mrsWrote_setX h13 s _, ?_⟩
  rw [State.x_advance h15, State.x_setX_self h13 h15, hstated, mixFree_and_mask]
  exact specRead_bitsWithin s reg

/-! ### MSR -/

theorem exec_msr (h13 : rn ≠ 13) (h15 : rn ≠ 15) (h : specRegOf sysm = some reg) (s : State) :
    exec (.msr rn sysm sbMsr) s = .next ((s.specWrite (s.x rn) reg).advance 4) := by
  change execMsr rn sysm sbMsr s = _
  rw [execMsr, if_neg (not_not.mpr rfl), if_neg (not_or_intro h13 h15), h]

/-- CONTROL is written in Thread mode only (10_state.md R32). -/
theorem specWrite_control_of_thread (h : s.ipsr = 0) (v : Word) :
    s.specWrite v .control = { s with spsel := v.getLsbD 1 } := by
  have hthread : s.threadMode = true := beq_iff_eq.mpr h
  rw [State.specWrite, State.setControl, if_pos hthread]

theorem specWrite_control_of_handler (h : s.ipsr ≠ 0) (v : Word) : s.specWrite v .control = s := by
  have hhandler : ¬ s.threadMode = true := fun hthread => h (beq_iff_eq.mp hthread)
  rw [State.specWrite, State.setControl, if_neg hhandler]

/-- Settles O47: each name writes its register, and a stack pointer loses its two low bits. -/
theorem msrWritesTheSpecialRegister : Obligations.MsrWritesTheSpecialRegister := by
  intro s rn h13 h15 v
  refine ⟨fun sysm hname => ?flags, fun sysm hname => ?nothing, ?msp, ?psp,
    exec_msr (reg := .primask) h13 h15 rfl s, fun hthread => ?thread, fun hhandler => ?handler⟩
  case flags =>
    simp only [List.mem_cons, List.not_mem_nil, or_false] at hname
    rcases hname with rfl | rfl | rfl | rfl
    · exact exec_msr (reg := .apsr) h13 h15 rfl s
    · exact exec_msr (reg := .iapsr) h13 h15 rfl s
    · exact exec_msr (reg := .eapsr) h13 h15 rfl s
    · exact exec_msr (reg := .psr) h13 h15 rfl s
  case nothing =>
    simp only [List.mem_cons, List.not_mem_nil, or_false] at hname
    rcases hname with rfl | rfl | rfl
    · exact exec_msr (reg := .ipsr) h13 h15 rfl s
    · exact exec_msr (reg := .epsr) h13 h15 rfl s
    · exact exec_msr (reg := .iepsr) h13 h15 rfl s
  case msp =>
    rw [← wordAligned_eq_ofNat]
    exact exec_msr (reg := .msp) h13 h15 rfl s
  case psp =>
    rw [← wordAligned_eq_ofNat]
    exact exec_msr (reg := .psp) h13 h15 rfl s
  case thread =>
    rw [exec_msr (reg := .control) h13 h15 rfl, specWrite_control_of_thread hthread]
    rfl
  case handler =>
    rw [onlyMoves, exec_msr (reg := .control) h13 h15 rfl, specWrite_control_of_handler hhandler]
    rfl

end Sys2Proof.Machine
end

section
/-! PROOF. The hints, CPS and the barriers (45_miscellaneous.md R371 to R375, R381 to R386). -/

namespace Sys2Proof.Machine

open Sys2Proof.Claims

variable {s : State}

/-! ### Hints, CPS and barriers -/

/-- Settles O48: the halfwords decode to the three hints, and SEV alone touches the event register. -/
theorem nopYieldAndSev : Obligations.NopYieldAndSev := by
  have hnop : coded 0xBF00 .nop := by rw [coded, decodeTableWord_narrow (by decide)]; rfl
  have hyield : coded 0xBF10 .yieldHint := by rw [coded, decodeTableWord_narrow (by decide)]; rfl
  have hsev : coded 0xBF40 .sev := by rw [coded, decodeTableWord_narrow (by decide)]; rfl
  refine ⟨hnop, hyield, hsev, fun s => ⟨?nop, ?yieldHint, ?sev⟩⟩
  case nop | yieldHint | sev => rfl

/-- Settles O49: with their should-be bits right, CPS writes PRIMASK and the barriers and reserved hints nothing. -/
theorem maskHintAndBarrierInstructions : Obligations.MaskHintAndBarrierInstructions := by
  intro s opA option
  refine ⟨?cpsid, ?cpsie, fun _ => ?hint, ?dsb, ?dmb, ?isb⟩
  case cpsid | cpsie | hint | dsb | dmb | isb => rfl

/-! ### WFE and WFI -/

theorem exec_wfe_of_refuse (h : s.platform.wfeMode = .refuse) : exec .wfe s = .refused .wfeUnusable := by
  change execWfe s = _
  rw [execWfe, h]

/-- WFE where it runs: a set event register comes first, then the environment decides. -/
theorem exec_wfe (h : s.platform.wfeMode = .nondeterministic) :
    exec .wfe s =
      if s.event then .next (s.clearEvent.advance 2)
      else if s.env.wake then .next (s.advance 2)
      else .next ((s.sleep .wfe).advance 2) := by
  change execWfe s = _
  rw [execWfe, h]

theorem exec_wfi_of_wakes (h : s.wakesMasked = true ∨ s.env.wake = true) : exec .wfi s = .next (s.advance 2) :=
  if_pos (Bool.or_eq_true_iff.mpr h)

theorem exec_wfi_of_sleeps (hmasked : s.wakesMasked = false) (hwake : s.env.wake = false) :
    exec .wfi s = .next ((s.sleep .wfi).advance 2) :=
  if_neg (by rw [hmasked, hwake]; decide)

/-- Settles O50, one case of WFE and WFI after the other. -/
theorem waitsCompleteOrSleep : Obligations.WaitsCompleteOrSleep := by
  intro s
  refine ⟨fun hmode => ⟨fun hevent => ?event, fun hevent hwake => ?wakes, fun hevent hwake => ?sleeps⟩,
    exec_wfe_of_refuse, exec_wfi_of_wakes, exec_wfi_of_sleeps⟩
  case event =>
    rw [exec_wfe hmode, if_pos hevent]
    rfl
  case wakes =>
    rw [onlyMoves, exec_wfe hmode, if_neg (ne_true_of_eq_false hevent), if_pos hwake]
    rfl
  case sleeps =>
    rw [exec_wfe hmode, if_neg (ne_true_of_eq_false hevent), if_neg (ne_true_of_eq_false hwake)]
    rfl

end Sys2Proof.Machine
end

section
/-! PROOF. Which exception is taken at an instruction boundary (60_exceptions.md R407, R408, R410). The idea: the
exception numbers rise, so the first of those that wait comes before all others in the order by priority number and
then by exception number, and only one can; the execution priority is a minimum that lies below each active one. -/

namespace Sys2Proof.Machine

open Sys2Proof.Claims

variable {s : State} {v : Nvic} {n m : Nat} {l : List Nat}

/-! ### The candidate -/

/-- Exception n comes before m, or is m: by priority number, among equals by exception number. -/
def Nvic.Before (v : Nvic) (n m : Nat) : Prop :=
  v.priority n < v.priority m ∨ (v.priority n = v.priority m ∧ n ≤ m)

theorem Nvic.Before.antisymm (h : v.Before n m) (h' : v.Before m n) : n = m := by
  unfold Nvic.Before at h h'
  omega

theorem Nvic.before_refl (v : Nvic) (n : Nat) : v.Before n n := .inr ⟨rfl, le_rfl⟩

theorem Nvic.first_eq_none_iff : v.first l = none ↔ l = [] := by
  cases l with
  | nil => exact iff_of_true rfl rfl
  | cons a l =>
    obtain ⟨n, -, hn, -⟩ := Nvic.first_of_mem (v := v) (List.mem_cons_self (a := a) (l := l))
    simp [hn]

/-- In a rising list the first exception comes before every other one. -/
theorem Nvic.before_of_first (hl : l.Pairwise (· < ·)) (h : v.first l = some n) : n ∈ l ∧ ∀ m ∈ l, v.Before n m := by
  induction l generalizing n with
  | nil => cases h
  | cons a l ih =>
    obtain ⟨ha, hl⟩ := List.pairwise_cons.mp hl
    rw [Nvic.first] at h
    split at h
    case h_1 hnone =>
      obtain rfl := Nvic.first_eq_none_iff.mp hnone
      cases h
      simpa using v.before_refl a
    case h_2 m hm =>
      obtain ⟨hmem, hbefore⟩ := ih hl hm
      split at h <;> cases h
      case isTrue hlt => exact ⟨List.mem_cons_of_mem a hmem, List.forall_mem_cons.mpr ⟨.inl hlt, hbefore⟩⟩
      case isFalse hle =>
        refine ⟨List.mem_cons_self, List.forall_mem_cons.mpr ⟨v.before_refl a, fun j hj => ?_⟩⟩
        have hmj := hbefore j hj
        have haj := ha j hj
        unfold Nvic.Before at hmj ⊢
        omega

theorem Nvic.first_eq_some_iff (hl : l.Pairwise (· < ·)) :
    v.first l = some n ↔ n ∈ l ∧ ∀ m ∈ l, v.Before n m := by
  refine ⟨Nvic.before_of_first hl, fun ⟨hn, hbefore⟩ => ?_⟩
  obtain ⟨m, hm, hfirst, -⟩ := Nvic.first_of_mem (v := v) hn
  obtain ⟨-, hbefore'⟩ := Nvic.before_of_first hl hfirst
  rw [hfirst, (hbefore' n hn).antisymm (hbefore m hm)]

theorem Nvic.waiting_rises (v : Nvic) : v.waiting.Pairwise (· < ·) := by
  have hall : exceptionNumbers.Pairwise (· < ·) := by decide
  exact hall.filter _

theorem Nvic.candidate_eq_some_iff : v.candidate = some n ↔ n ∈ v.waiting ∧ ∀ m ∈ v.waiting, v.Before n m :=
  Nvic.first_eq_some_iff v.waiting_rises

theorem Nvic.candidate_eq_none_iff : v.candidate = none ↔ ∀ m, m ∉ v.waiting :=
  Nvic.first_eq_none_iff.trans List.eq_nil_iff_forall_not_mem

/-- Settles O39: the candidate is the first of the waiting exceptions, which rise. -/
theorem candidateIsTheHighestPriority : Obligations.CandidateIsTheHighestPriority := by
  intro v n
  simp only [Nvic.candidate_eq_some_iff, Nvic.candidate_eq_none_iff, Nvic.mem_waiting, Nvic.Before, and_imp,
    and_assoc, not_and, Bool.not_eq_true, and_self]

/-! ### The execution priority -/

theorem foldr_min_le {f : Nat → Int} {b : Int} (h : m ∈ l) : l.foldr (fun n p => min (f n) p) b ≤ f m := by
  induction l with
  | nil => cases h
  | cons a l ih =>
    rcases List.mem_cons.mp h with rfl | h
    · exact min_le_left _ _
    · exact (min_le_right _ _).trans (ih h)

theorem Nvic.activePriority_le (hm : m ∈ exceptionNumbers) (hact : v.active.getLsbD m = true) :
    v.activePriority ≤ v.priority m :=
  foldr_min_le (List.mem_filter.mpr ⟨hm, hact⟩)

theorem State.execPriority_le_activePriority (s : State) : s.execPriority ≤ s.nvic.activePriority := by
  unfold State.execPriority
  split
  · exact min_le_left _ _
  · exact le_rfl

theorem State.execPriority_of_primask (h : s.primask = true) : s.execPriority ≤ 0 := by
  rw [State.execPriority, if_pos h]
  exact min_le_right _ _

theorem levelPriority_nonneg (level : BitVec 2) : 0 ≤ levelPriority level := by
  unfold levelPriority
  omega

/-- Only the exceptions of fixed priority lie above level 0 (60_exceptions.md R406). -/
theorem Nvic.priority_nonneg (h1 : n ≠ 1) (h2 : n ≠ 2) (h3 : n ≠ 3) : 0 ≤ v.priority n := by
  rw [Nvic.priority, if_neg h1, excNmi, if_neg h2, excHardFault, if_neg h3]
  split_ifs
  case neg => decide
  all_goals exact levelPriority_nonneg _

theorem State.preempting_eq_some_iff :
    s.preempting = some n ↔ s.nvic.candidate = some n ∧ s.nvic.priority n < s.execPriority := by
  rw [State.preempting, Nvic.candidateAbove]
  cases s.nvic.candidate with
  | none => simp
  | some m =>
    simp only [Option.ite_none_right_eq_some, Option.some.injEq]
    exact ⟨fun ⟨hlt, hm⟩ => ⟨hm, hm ▸ hlt⟩, fun ⟨hm, hlt⟩ => ⟨hm ▸ hlt, hm⟩⟩

/-! ### The step -/

theorem step_of_preempting (hreset : s.nextEnv.env.reset = false) (hrun : s.run = .running)
    (hn : s.nextEnv.agents.preempting = some n) : step s = takeException n s.pc s.nextEnv.agents := by
  obtain ⟨hrun', hpc', -⟩ := nextEnv_fields s
  have hcore := (agents_sameCore s.nextEnv).1
  have hr : s.nextEnv.agents.run = .running := by rw [hcore.run, hrun', hrun]
  have hpc : s.nextEnv.agents.pc = s.pc := by rw [hcore.pc, hpc']
  simp only [step, hreset, hrun', hrun, act, hr, hn, hpc]
  rfl

/-- Settles O40: what is to be taken lies above the execution priority, which is a minimum over the active exceptions
and, with PRIMASK, 0. -/
theorem preemptionIsStrictAndMasked : Obligations.PreemptionIsStrictAndMasked := by
  intro s n
  refine ⟨step_of_preempting, fun h => ?_⟩
  obtain ⟨hcand, hlt⟩ := State.preempting_eq_some_iff.mp h
  refine ⟨fun m hm hact => ?strict, fun hmask => ?masked⟩
  case strict => exact hlt.trans_le (s.execPriority_le_activePriority.trans (Nvic.activePriority_le hm hact))
  case masked =>
    obtain ⟨hwait, -⟩ := Nvic.candidate_eq_some_iff.mp hcand
    obtain ⟨hmem, -, -⟩ := Nvic.mem_waiting.mp hwait
    have h1 : n ≠ 1 := by rintro rfl; revert hmem; decide
    have hneg := hlt.trans_le (State.execPriority_of_primask hmask)
    by_contra hne
    obtain ⟨h2, h3⟩ := not_or.mp hne
    exact hneg.not_ge (Nvic.priority_nonneg h1 h2 h3)

end Sys2Proof.Machine
end

section
/-! PROOF. Sampling the interrupt lines (60_exceptions.md R440, 00_scope.md R13). The idea: a sampling is told bit by
bit, and what it adds to the pending interrupts stays there whatever the other agents do afterwards. -/

namespace Sys2Proof.Machine

open Sys2Proof.Claims

variable {s : State} {lines : BitVec 32} {m k : Nat}

/-! ### One sampling -/

/-- A line latches its interrupt where it is asserted with the interrupt idle, or where it rises. -/
theorem getLsbD_latched (v : Nvic) (lines : BitVec 32) (hm : m < 32) :
    (v.latched lines).getLsbD m =
      (lines.getLsbD m && ((!v.pending.getLsbD (16 + m) && !v.active.getLsbD (16 + m)) || !v.linePrev.getLsbD m)) := by
  simp only [Nvic.latched, BitVec.getLsbD_or, BitVec.getLsbD_and, BitVec.getLsbD_not, getLsbD_irqBits _ hm, hm,
    decide_true, Bool.true_and]
  cases lines.getLsbD m <;> simp

theorem sampleLines_pending_irq (s : State) (lines : BitVec 32) (hm : m < 32) :
    (s.sampleLines lines).nvic.pending.getLsbD (16 + m) =
      (s.nvic.pending.getLsbD (16 + m) ||
        (lines.getLsbD m && (!s.nvic.active.getLsbD (16 + m) || !s.nvic.linePrev.getLsbD m))) := by
  rw [State.sampleLines, State.rememberLines_nvic_pending, State.pendIrqs_nvic_pending, BitVec.getLsbD_or,
    getLsbD_ofIrqBits _ hm, getLsbD_latched _ _ hm]
  cases s.nvic.pending.getLsbD (16 + m) <;> rfl

/-- A word of interrupts has no bit for the exceptions below 16. -/
theorem getLsbD_ofIrqBits_of_lt (b : BitVec 32) (hk : k < 16) : (ofIrqBits b).getLsbD k = false := by
  rw [ofIrqBits, BitVec.getLsbD_ofNat, Nat.testBit_mul_two_pow, decide_eq_false (not_le.mpr hk), Bool.false_and,
    Bool.and_false]

theorem sampleLines_pending_system (s : State) (lines : BitVec 32) (hk : k < 16) :
    (s.sampleLines lines).nvic.pending.getLsbD k = s.nvic.pending.getLsbD k := by
  rw [State.sampleLines, State.rememberLines_nvic_pending, State.pendIrqs_nvic_pending, BitVec.getLsbD_or,
    getLsbD_ofIrqBits_of_lt _ hk, Bool.or_false]

/-- Sampled a second time, the same levels latch nothing. -/
theorem latched_sampleLines (s : State) (lines : BitVec 32) : (s.sampleLines lines).nvic.latched lines = 0 := by
  refine BitVec.eq_of_getLsbD_eq fun i hi => ?_
  have hprev : (s.sampleLines lines).nvic.linePrev = lines := rfl
  have hact : (s.sampleLines lines).nvic.active = s.nvic.active := rfl
  rw [getLsbD_latched _ _ hi, sampleLines_pending_irq s lines hi, hprev, hact]
  cases lines.getLsbD i <;> cases s.nvic.active.getLsbD (16 + i) <;> simp

theorem pendIrqs_zero (s : State) : s.pendIrqs 0 = s := by
  have hbits : ofIrqBits 0#32 = 0 := rfl
  simp [State.pendIrqs, hbits]

theorem sampleLines_idem (s : State) (lines : BitVec 32) :
    (s.sampleLines lines).sampleLines lines = s.sampleLines lines := by
  conv_lhs => rw [State.sampleLines, latched_sampleLines, pendIrqs_zero]
  rfl

/-! ### Several samplings -/

theorem agentSteps_append (s : State) (as bs : List AgentStep) :
    s.agentSteps (as ++ bs) = (s.agentSteps as).agentSteps bs := by
  induction as generalizing s with
  | nil => rfl
  | cons a as ih => exact ih (s.agentStep a)

/-- A line that is low at one sampling and high at the next leaves its interrupt pending, even an active one. -/
theorem sampleLines_pending_of_rise (s : State) {low high : BitVec 32} (hm : m < 32) (hlow : low.getLsbD m = false)
    (hhigh : high.getLsbD m = true) :
    ((s.sampleLines low).sampleLines high).nvic.pending.getLsbD (16 + m) = true := by
  have hprev : (s.sampleLines low).nvic.linePrev = low := rfl
  rw [sampleLines_pending_irq _ _ hm, hprev, hlow, hhigh]
  simp

/-- A rising edge among the steps of the other agents is pending when they are done. -/
theorem takeSample_pending_of_rise (s : State) (before after : List AgentStep) {low high : BitVec 32} (hm : m < 32)
    (hlow : low.getLsbD m = false) (hhigh : high.getLsbD m = true) :
    (s.takeSample ⟨before ++ [.sampled low, .sampled high] ++ after, lines⟩).nvic.pending.getLsbD (16 + m) = true := by
  have hrise := sampleLines_pending_of_rise (s.agentSteps before) hm hlow hhigh
  have hkept := (agentSteps_onlyPends _ after).kept _ hrise
  rw [State.takeSample, agentSteps_append, agentSteps_append]
  exact (sampleLines_onlyPends _ lines).kept _ hkept

/-- Settles O41: one sampling bit by bit; in a schedule, what has risen stays pending. -/
theorem samplingLatchesLines : Obligations.SamplingLatchesLines := fun s lines _ hm =>
  ⟨sampleLines_pending_irq s lines hm, fun _ hk => sampleLines_pending_system s lines hk, rfl, rfl,
    sampleLines_idem s lines,
    fun before after _ _ hlow hhigh => takeSample_pending_of_rise s before after hm hlow hhigh⟩

end Sys2Proof.Machine
end

section
/-! PROOF. The registers of the system timer and of the system control block (10_state.md R51 to R64, 60_exceptions.md
R432 to R435, R451). The idea: a write is a record update, and a read is known on the bits of its mask, where the free
value does not show, so that each field is read off the known word bit by bit. -/

namespace Sys2Proof.Machine

open Sys2Proof.Claims

variable {s : State} {known mask free v : Word} {n k i lo len : Nat} {p : Bool}

/-! ### Writing ICSR -/

theorem getLsbD_putBit {w : Nat} (b : BitVec w) (hi : n < w) :
    (putBit b k p).getLsbD n = if k = n then p else b.getLsbD n := by
  cases p with
  | false => rw [putBit, if_neg (by decide), getLsbD_clearBit b hi]; split <;> simp [*]
  | true => rw [putBit, if_pos rfl, getLsbD_setBit b hi]; split <;> simp [*]

/-- The pending bits after a write of ICSR: those of PendSV and SysTick by their two bits, the others as before. -/
theorem getLsbD_writeIcsr_pending (s : State) (v : Word) (hn : n < 48) :
    (s.writeIcsr v).nvic.pending.getLsbD n =
      if n = 15 then pendingAfter (s.nvic.pending.getLsbD 15) (v.getLsbD 26) (v.getLsbD 25) (s.freeValue.getLsbD 1)
      else if n = 14 then pendingAfter (s.nvic.pending.getLsbD 14) (v.getLsbD 28) (v.getLsbD 27) (s.freeValue.getLsbD 0)
      else s.nvic.pending.getLsbD n := by
  simp only [State.writeIcsr, getLsbD_putBit _ hn, excPendSv, excSysTick, eq_comm (b := n)]

/-- Settles O45: the two pending bits by the four cases of their set and clear bits. -/
theorem pendingBitsFollowIcsrWrites : Obligations.PendingBitsFollowIcsrWrites := by
  intro s v hnmi
  have hpendSv : (s.writeIcsr v).nvic.pending.getLsbD 14 = _ := getLsbD_writeIcsr_pending s v (by decide)
  have hsysTick : (s.writeIcsr v).nvic.pending.getLsbD 15 = _ := getLsbD_writeIcsr_pending s v (by decide)
  refine ⟨s.writeIcsr v, if_neg (ne_true_of_eq_false hnmi), ?svSet, ?svClear, ?svKeep, ?svBoth, ?stSet, ?stClear,
    ?stKeep, ?stBoth, fun k h14 h15 => ?others, rfl⟩
  case svSet | svClear | svKeep | svBoth =>
    intro hset hclear
    rw [hpendSv, hset, hclear]
    rfl
  case stSet | stClear | stKeep | stBoth =>
    intro hset hclear
    rw [hsysTick, hset, hclear]
    rfl
  case others =>
    by_cases hk : k < 48
    · rw [getLsbD_writeIcsr_pending s v hk, if_neg h15, if_neg h14]
    · rw [BitVec.getLsbD_of_ge _ _ (not_lt.mp hk), BitVec.getLsbD_of_ge _ _ (not_lt.mp hk)]

/-! ### Reading a field -/

/-- A bit of the mask reads as known. -/
theorem getLsbD_mixFree (h : mask.getLsbD i = true) : (mixFree known mask free).getLsbD i = known.getLsbD i := by
  have hi : i < 32 := BitVec.lt_of_getLsbD h
  simp only [mixFree, BitVec.getLsbD_or, BitVec.getLsbD_and, BitVec.getLsbD_not, h, hi, Bool.and_true, decide_true,
    Bool.not_true, Bool.and_false, Bool.or_false]

/-- The bits of a word from lo on make up a number, written as the statements write it. -/
theorem toNat_field (x : BitVec len) (h : ∀ j < len, v.getLsbD (lo + j) = x.getLsbD j) :
    v.toNat / 2 ^ lo % 2 ^ len = x.toNat := by
  refine Nat.eq_of_testBit_eq fun j => ?_
  rw [Nat.testBit_mod_two_pow, Nat.testBit_div_two_pow, Nat.add_comm]
  by_cases hj : j < len
  · rw [decide_eq_true hj, Bool.true_and]
    exact h j hj
  · rw [decide_eq_false hj, Bool.false_and, BitVec.testBit_toNat, BitVec.getLsbD_of_ge _ _ (not_lt.mp hj)]

theorem toNat_field_mixFree (x : BitVec len) (hmask : ∀ j < len, mask.getLsbD (lo + j) = true)
    (h : ∀ j < len, known.getLsbD (lo + j) = x.getLsbD j) :
    (mixFree known mask free).toNat / 2 ^ lo % 2 ^ len = x.toNat :=
  toNat_field x fun j hj => by rw [getLsbD_mixFree (hmask j hj), h j hj]

theorem toNat_levelByte (level : BitVec 2) : (levelByte level).toNat = 64 * level.toNat := by
  revert level
  decide

/-- The top byte of a word needs no rounding off. -/
theorem toNat_topByte (x : BitVec 8) (h : v.toNat / 2 ^ 24 % 2 ^ 8 = x.toNat) : v.toNat / 2 ^ 24 = x.toNat := by
  omega

theorem getLsbD_bitWord (p : Bool) (hi : i < 32) : (bitWord p n).getLsbD i = (p && decide (i = n)) := by
  rw [bitWord, boolWord, BitVec.getLsbD_shiftLeft, decide_eq_true hi, Bool.true_and]
  cases p with
  | false => simp
  | true =>
    rw [if_pos rfl, BitVec.getLsbD_one]
    by_cases hlt : i < n
    · simp [hlt, hlt.ne]
    · simp [hlt]; omega

/-- ISRPENDING counts every interrupt, enabled or not (60_exceptions.md R435; notes/assumptions/44.md). -/
theorem irqBits_ne_zero_iff (b : BitVec 48) : (irqBits b != 0) = true ↔ ∃ m < 32, b.getLsbD (16 + m) = true := by
  rw [bne_iff_ne, ne_eq, ← not_iff_not, not_not]
  constructor
  · rintro h ⟨m, hm, hbit⟩
    rw [← getLsbD_irqBits b hm, h] at hbit
    exact absurd hbit (by simp)
  · intro h
    refine BitVec.eq_of_getLsbD_eq fun i hi => ?_
    rw [getLsbD_irqBits b hi]
    simpa using fun hbit => h ⟨i, hi, hbit⟩

/-! ### Each register -/

theorem read_systCsr (s : State) :
    (s.ppbRead .systCsr).1.getLsbD 0 = s.sysTick.enable ∧ (s.ppbRead .systCsr).1.getLsbD 1 = s.sysTick.tickInt ∧
    (s.ppbRead .systCsr).1.getLsbD 2 = s.sysTick.clkSource ∧
    (s.ppbRead .systCsr).1.getLsbD 16 = s.sysTick.countFlag := by
  refine ⟨?_, ?_, ?_, ?_⟩
  all_goals
    rw [State.ppbRead, getLsbD_mixFree (by decide), SysTick.csrWord]
    simp only [BitVec.getLsbD_or, getLsbD_bitWord, Nat.reduceLT, Nat.reduceEqDiff, decide_true, decide_false,
      Bool.and_true, Bool.and_false, Bool.or_false, Bool.false_or]

theorem read_scr (s : State) :
    (s.ppbRead .scr).1.getLsbD 4 = s.scr.sevOnPend ∧ (s.ppbRead .scr).1.getLsbD 2 = s.scr.sleepDeep ∧
    (s.ppbRead .scr).1.getLsbD 1 = s.scr.sleepOnExit := by
  refine ⟨?_, ?_, ?_⟩
  all_goals
    rw [State.ppbRead, getLsbD_mixFree (by decide), Scr.word]
    simp only [BitVec.getLsbD_or, getLsbD_bitWord, Nat.reduceLT, Nat.reduceEqDiff, decide_true, decide_false,
      Bool.and_true, Bool.and_false, Bool.or_false, Bool.false_or]

theorem read_aircr (s : State) (h : aircrMask.getLsbD i = true) : (s.ppbRead .aircr).1.getLsbD i = false := by
  rw [State.ppbRead, getLsbD_mixFree h]
  exact BitVec.getLsbD_zero

/-- A register of 24 bits (10_state.md R62, R63). -/
theorem toNat_mixFree_count (c : BitVec 24) (free : Word) :
    (mixFree (c.setWidth 32) count24Mask free).toNat % 2 ^ 24 = c.toNat := by
  have h := toNat_field_mixFree (known := c.setWidth 32) (mask := count24Mask) (free := free) (lo := 0) c (by decide)
    fun j hj => by rw [BitVec.getLsbD_setWidth, Nat.zero_add, decide_eq_true (by omega), Bool.true_and]
  rwa [Nat.pow_zero, Nat.div_one] at h

theorem read_shpr2 (s : State) : (s.ppbRead .shpr2).1.toNat / 2 ^ 24 = 64 * s.nvic.svcPrio.toNat := by
  rw [← toNat_levelByte]
  refine toNat_topByte _ (toNat_field_mixFree _ (by decide) fun j hj => ?_)
  rw [Nvic.shpr2Word, BitVec.getLsbD_append, if_neg (by omega), Nat.add_sub_cancel_left]

theorem read_shpr3_sysTick (s : State) : (s.ppbRead .shpr3).1.toNat / 2 ^ 24 = 64 * s.nvic.sysTickPrio.toNat := by
  rw [← toNat_levelByte]
  refine toNat_topByte _ (toNat_field_mixFree _ (by decide) fun j hj => ?_)
  rw [Nvic.shpr3Word, BitVec.getLsbD_append, if_neg (by omega), BitVec.getLsbD_append, if_neg (by omega),
    show 24 + j - 16 - 8 = j by omega]

theorem read_shpr3_pendSv (s : State) :
    (s.ppbRead .shpr3).1.toNat / 2 ^ 16 % 2 ^ 8 = 64 * s.nvic.pendSvPrio.toNat := by
  rw [← toNat_levelByte]
  refine toNat_field_mixFree _ (by decide) fun j hj => ?_
  rw [Nvic.shpr3Word, BitVec.getLsbD_append, if_neg (by omega), BitVec.getLsbD_append, if_pos (by omega),
    Nat.add_sub_cancel_left]

/-! ### ICSR -/

theorem getLsbD_icsrWord (s : State) (hi : i < 32) :
    s.icsrWord.getLsbD i =
      ((s.nvic.pending.getLsbD 14 && decide (i = 28)) || (s.nvic.pending.getLsbD 15 && decide (i = 26)) ||
        ((irqBits s.nvic.pending != 0) && decide (i = 22)) ||
        (!decide (i < 12) && s.nvic.vectPending.testBit (i - 12)) || s.ipsr.getLsbD i) := by
  have hsub : i - 12 < 32 := by omega
  simp only [State.icsrWord, BitVec.getLsbD_or, getLsbD_bitWord _ hi, BitVec.getLsbD_shiftLeft, BitVec.getLsbD_ofNat,
    BitVec.getLsbD_setWidth, hi, hsub, decide_true, Bool.true_and, excPendSv, excSysTick]

/-- VECTPENDING has six bits, and so has every exception number. -/
theorem Nvic.vectPending_lt (v : Nvic) : v.vectPending < 2 ^ 6 := by
  cases h : v.candidate with
  | none => simp [Nvic.vectPending, h]
  | some n =>
    obtain ⟨hmem, -, -⟩ := Nvic.mem_waiting.mp (Nvic.candidate_eq_some_iff.mp h).1
    have hn := lt_of_mem_exceptionNumbers hmem
    simp only [Nvic.vectPending, h, Option.getD_some]
    omega

/-- Above its six bits VECTPENDING is 0. -/
theorem Nvic.testBit_vectPending_of_le (v : Nvic) (h : 6 ≤ k) : v.vectPending.testBit k = false :=
  Nat.testBit_lt_two_pow (v.vectPending_lt.trans_le (Nat.pow_le_pow_right (by decide) h))

/-- The bits of ICSR above VECTPENDING stand for themselves. -/
theorem read_icsr_bit (s : State) (hi : 18 ≤ i) (h : icsrMask.getLsbD i = true) :
    (s.ppbRead .icsr).1.getLsbD i =
      ((s.nvic.pending.getLsbD 14 && decide (i = 28)) || (s.nvic.pending.getLsbD 15 && decide (i = 26)) ||
        ((irqBits s.nvic.pending != 0) && decide (i = 22))) := by
  rw [State.ppbRead, getLsbD_mixFree h, getLsbD_icsrWord _ (BitVec.lt_of_getLsbD h),
    s.nvic.testBit_vectPending_of_le (by omega), BitVec.getLsbD_of_ge s.ipsr _ (by omega), Bool.and_false,
    Bool.or_false, Bool.or_false]

theorem read_icsr_vectPending (s : State) :
    (s.ppbRead .icsr).1.toNat / 2 ^ 12 % 2 ^ 6 = s.nvic.candidate.getD 0 := by
  have hfield : (BitVec.ofNat 6 s.nvic.vectPending).toNat = s.nvic.vectPending := Nat.mod_eq_of_lt s.nvic.vectPending_lt
  refine (toNat_field_mixFree (BitVec.ofNat 6 s.nvic.vectPending) (by decide) fun j hj => ?_).trans hfield
  rw [getLsbD_icsrWord _ (by omega), BitVec.getLsbD_of_ge s.ipsr _ (by omega), BitVec.getLsbD_ofNat,
    decide_eq_false (by omega), decide_eq_false (by omega), decide_eq_false (by omega), decide_eq_false (by omega),
    decide_eq_true hj, Nat.add_sub_cancel_left]
  simp

theorem read_icsr_vectActive (s : State) : (s.ppbRead .icsr).1.toNat % 2 ^ 6 = s.ipsr.toNat := by
  have h : (s.ppbRead .icsr).1.toNat / 2 ^ 0 % 2 ^ 6 = s.ipsr.toNat :=
    toNat_field_mixFree s.ipsr (by decide) fun j hj => by
      rw [getLsbD_icsrWord _ (by omega), Nat.zero_add, decide_eq_false (by omega), decide_eq_false (by omega),
        decide_eq_false (by omega), decide_eq_true (by omega)]
      simp
  rwa [Nat.pow_zero, Nat.div_one] at h

theorem levelPriority_eq_cast (level : BitVec 2) : levelPriority level = (64 * level.toNat : Nat) := by
  rw [levelPriority, Nat.cast_mul]
  rfl

/-- Settles O44: the writes are the record updates of the statement, the reads go field by field. -/
theorem systemRegistersReadBack : Obligations.SystemRegistersReadBack := by
  intro s v
  obtain ⟨henable, htickInt, hclkSource, hcountFlag⟩ := read_systCsr s
  obtain ⟨hsevOnPend, hsleepDeep, hsleepOnExit⟩ := read_scr s
  have hicsr (i : Nat) := read_icsr_bit s (i := i)
  refine ⟨rfl, rfl, rfl, rfl, rfl, rfl, fun reg hreg => ?readOnly, rfl, rfl, rfl, henable, htickInt, hclkSource,
    hcountFlag, rfl, toNat_mixFree_count _ _, toNat_mixFree_count _ _, read_shpr2 s, read_shpr3_sysTick s,
    read_shpr3_pendSv s, levelPriority_eq_cast _, levelPriority_eq_cast _, levelPriority_eq_cast _, hsevOnPend,
    hsleepDeep, hsleepOnExit, read_aircr s (by decide), read_aircr s (by decide), read_aircr s (by decide), ?pendSv,
    ?sysTick, ?nmi, ?isrPending, read_icsr_vectPending s, read_icsr_vectActive s⟩
  case readOnly =>
    simp only [List.mem_cons, List.not_mem_nil, or_false] at hreg
    rcases hreg with rfl | rfl | rfl
    case inl | inr.inl | inr.inr => rfl
  case pendSv =>
    rw [hicsr 28 (by decide) (by decide)]
    simp
  case sysTick =>
    rw [hicsr 26 (by decide) (by decide)]
    simp
  case nmi =>
    rw [hicsr 31 (by decide) (by decide)]
    simp
  case isrPending =>
    rw [hicsr 22 (by decide) (by decide), ← irqBits_ne_zero_iff]
    simp

end Sys2Proof.Machine
end

section
/-! PROOF. Lockup and asserted reset (60_exceptions.md R426, 70_reset_and_hazards.md section 1). The idea: what a step
does then is to take the environment's choices and, in lockup, to let the other agents act, and neither touches the
core. -/

namespace Sys2Proof.Machine

variable {s : State}

/-- Taking the environment's choices changes the schedule only. -/
theorem nextEnv_eq (s : State) : s.nextEnv = { s with env := s.nextEnv.env, future := s.nextEnv.future } := by
  unfold State.nextEnv
  split <;> rfl

theorem step_of_reset (h : s.nextEnv.env.reset = true) : step s = .next s.nextEnv.holdReset := if_pos h

theorem step_of_lockup (hreset : s.nextEnv.env.reset = false) (h : s.run = .lockup) :
    step s = .next s.nextEnv.agents := by
  have hrun : s.nextEnv.run = .lockup := by rw [nextEnv_eq]; exact h
  have hrun' : s.nextEnv.agents.run = .lockup := (agents_sameCore _).1.run.trans hrun
  simp only [step, hreset, hrun, act, hrun']
  rfl

/-- Settles O55: neither the schedule nor the other agents touch the core, and holding reset writes only the run
state. -/
theorem lockupAndResetExecuteNothing : Obligations.LockupAndResetExecuteNothing := by
  intro s h
  by_cases hreset : s.nextEnv.env.reset = true
  · refine ⟨_, step_of_reset hreset, ?_⟩
    rw [if_pos hreset, nextEnv_eq]
    exact ⟨rfl, rfl, rfl, rfl, rfl, rfl, rfl, rfl, rfl, rfl, rfl, rfl, rfl⟩
  · have hlock : s.run = .lockup := h.resolve_right hreset
    obtain ⟨hcore, hstore⟩ := agents_sameCore s.nextEnv
    refine ⟨_, step_of_lockup (Bool.eq_false_iff.mpr hreset) hlock, ?_⟩
    rw [if_neg hreset, hcore.r, hcore.msp, hcore.psp, hcore.lr, hcore.pc, hcore.flags, hcore.thumb, hcore.ipsr,
      hcore.primask, hcore.spsel, hcore.active, hstore.mem, hcore.run, nextEnv_eq]
    exact ⟨rfl, rfl, rfl, rfl, rfl, rfl, rfl, rfl, rfl, rfl, rfl, rfl, hlock⟩

end Sys2Proof.Machine
end

section
/-! PROOF. Only CPS and MSR change PRIMASK (60_exceptions.md R408). The idea: memory accesses and the other agents leave
the core alone, exception entry and return write every other mark of the mode but not this one, and of the instructions
that write a field of the core directly only these name it. -/

namespace Sys2Proof.Machine

variable {α : Type} {s t : State} {n : Nat} {addr : Word}

/-! ### Taking an exception and returning from one -/

theorem startDerived_primask (h : startDerived n s = .next t) : t.primask = s.primask := by
  obtain ⟨w, s1, hm, rfl⟩ | ⟨c, s1, hm, rfl⟩ := startDerived_next h
  · simpa using (memRead_sameCore hm).1.primask
  · obtain ⟨rfl, -⟩ := memRead_abort hm
    rfl

theorem startHandler_primask {link : Word} (h : startHandler n link s = .next t) : t.primask = s.primask := by
  obtain ⟨w, s1, hm, rfl⟩ | ⟨c, s1, hm, ⟨-, rfl⟩ | ⟨-, h⟩⟩ := startHandler_next h
  · simpa using (memRead_sameCore hm).1.primask
  · obtain ⟨rfl, -⟩ := memRead_abort hm
    rfl
  · obtain ⟨rfl, -⟩ := memRead_abort hm
    exact startDerived_primask (s := s.enterMode n link) h

theorem takeException_primask {ra : Word} (h : takeException n ra s = .next t) : t.primask = s.primask := by
  obtain h | ⟨k, -, h⟩ := takeException_next h
  · obtain ⟨s1, hst, h⟩ := enterException_next h
    exact (startHandler_primask h).trans (storeWords_sameCore hst).primask
  · obtain ⟨s1, hst, rfl⟩ := cutEntry_next h
    exact (storeWords_sameCore hst).primask

theorem raiseHardFault_primask (c : FaultCause) (h : raiseHardFault c s = .next t) : t.primask = s.primask := by
  obtain ⟨-, rfl⟩ | ⟨-, h⟩ := raiseHardFault_next h
  · rfl
  · exact takeException_primask (s := s.pend excHardFault) h

theorem unstack_primask (h : unstack addr s = .next t) : t.primask = s.primask := by
  obtain ⟨ws, s1, hl, h⟩ := unstack_next h
  have hl := (loadWords_sameCore hl).2.1.primask
  obtain ⟨psr, s2, hr, h⟩ | ⟨c, s2, hr, -, rfl⟩ := h
  · obtain ⟨-, -, -, rfl⟩ := unstackFrame_next h
    rw [State.restore_primask, (memRead_sameCore hr).1.primask, hl]
  · obtain ⟨rfl, -⟩ := memRead_abort hr
    exact hl

theorem bxWritePc_primask (h : bxWritePc addr s = .next t) : t.primask = s.primask := by
  obtain ⟨-, -, h⟩ | ⟨-, rfl⟩ := bxWritePc_next h
  · obtain ⟨m, -, h⟩ | ⟨-, h⟩ := returnSequence_next (exceptionReturn_next h).2
    · exact startHandler_primask (s := s.deactivateCurrent) h
    · exact unstack_primask (s := s.deactivateCurrent) h
  · rfl

/-! ### Instructions that access memory -/

/-- Going on from an access, or taking its fault, changes PRIMASK only if what goes on does. -/
theorem finish_primask {m : Access α} {k : α → State → Result} (hm : m.LeavesCore s)
    (hk : ∀ a u, k a u = .next t → t.primask = u.primask) (h : m.finish k = .next t) : t.primask = s.primask := by
  obtain ⟨a, s1, rfl, h⟩ | ⟨c, s1, rfl, h⟩ := finish_next h
  · exact (hk a s1 h).trans (SameCore.primask hm)
  · exact (raiseHardFault_primask c h).trans (SameCore.primask hm)

/-- An answer that is one state. -/
theorem primask_of_next {u : State} (h : (.next u : Result) = .next t) (hu : u.primask = s.primask) :
    t.primask = s.primask := by
  cases h
  exact hu

theorem loadLow_primask {ext : Word → Word} {rt : LowReg} (h : loadLow n ext rt addr s = .next t) :
    t.primask = s.primask := by
  refine finish_primask (memRead_leavesCore n addr s) (fun _ _ h => ?_) h
  exact primask_of_next h rfl

theorem storeLow_primask {rt : LowReg} (h : storeLow n rt addr s = .next t) : t.primask = s.primask := by
  refine finish_primask (memWrite_leavesCore n addr (s.lo rt) s) (fun _ _ h => ?_) h
  exact primask_of_next h rfl

/-- A multiple transfer, whole or cut short. -/
theorem transfer_primask {accesses : Nat → State → Access α} {done : α → State → Result}
    (hacc : ∀ k u, (accesses k u).LeavesCore u) (hdone : ∀ a u, done a u = .next t → t.primask = u.primask)
    (h : transfer n accesses done s = .next t) : t.primask = s.primask := by
  have hmid := (interrupted_sameCore s).1.primask
  obtain ⟨-, h⟩ | ⟨k, -, h⟩ | ⟨k, -, h⟩ := transfer_next h
  · exact (finish_primask (hacc n _) hdone h).trans hmid
  · refine (finish_primask (hacc k _) (fun _ _ h => ?_) h).trans hmid
    exact primask_of_next h rfl
  · refine finish_primask (hacc k s) (fun _ _ h => ?_) h
    exact primask_of_next h rfl

theorem loadTransfer_primask {done : List Word → State → Result}
    (hdone : ∀ vs u, done vs u = .next t → t.primask = u.primask) (h : loadTransfer n addr done s = .next t) :
    t.primask = s.primask :=
  transfer_primask (fun k u => loadWords_leavesCore k addr u) hdone h

theorem storeTransfer_primask {words : List Word} {done : State → Result}
    (hdone : ∀ u, done u = .next t → t.primask = u.primask) (h : storeTransfer words addr done s = .next t) :
    t.primask = s.primask :=
  transfer_primask (fun k u => storeWords_leavesCore (words.take k) addr u) (fun _ u => hdone u) h

/-- Writing listed registers changes the register file only. -/
theorem setListed_eq (s : State) (ns : List LowReg) (vs : List Word) :
    s.setListed ns vs = { s with r := (s.setListed ns vs).r } := by
  induction ns generalizing s vs with
  | nil => rfl
  | cons n ns ih =>
    cases vs with
    | nil => rfl
    | cons v vs => exact ih (s.setLo n v) vs

theorem setListed_primask (s : State) (ns : List LowReg) (vs : List Word) :
    (s.setListed ns vs).primask = s.primask := by rw [setListed_eq]

theorem execLdm_primask {rn : LowReg} {list : RegList} (h : execLdm rn list s = .next t) : t.primask = s.primask := by
  refine loadTransfer_primask (fun vs u h => ?_) (next_of_guard h)
  refine primask_of_next h ?_
  rw [State.advance_primask]
  split
  · exact setListed_primask u _ vs
  · exact setListed_primask u _ vs

theorem execStm_primask {rn : LowReg} {list : RegList} (h : execStm rn list s = .next t) : t.primask = s.primask := by
  refine storeTransfer_primask (fun _ h => ?_) (next_of_guard (next_of_guard h))
  exact primask_of_next h rfl

theorem execPush_primask {m : Bool} {list : RegList} (h : execPush m list s = .next t) : t.primask = s.primask := by
  refine storeTransfer_primask (fun _ h => ?_) (next_of_guard h)
  exact primask_of_next h rfl

theorem execPop_primask {p : Bool} {list : RegList} (h : execPop p list s = .next t) : t.primask = s.primask := by
  refine loadTransfer_primask (fun vs u h => ?_) (next_of_guard h)
  have hu := setListed_primask u (listed list) vs
  dsimp only at h
  split at h
  · exact (bxWritePc_primask h).trans hu
  · exact primask_of_next h hu

/-! ### Instructions with more than one answer -/

theorem execAddHigh_primask {rdn rm : Reg} (h : execAddHigh rdn rm s = .next t) : t.primask = s.primask := by
  have h := next_of_guard h
  split at h <;> exact primask_of_next h rfl

theorem execMovHigh_primask {rd rm : Reg} (h : execMovHigh rd rm s = .next t) : t.primask = s.primask := by
  unfold execMovHigh at h
  split at h <;> exact primask_of_next h rfl

theorem execBCond_primask {cond : Cond} {imm8 : BitVec 8} (h : execBCond cond imm8 s = .next t) :
    t.primask = s.primask := by
  unfold execBCond at h
  split at h <;> exact primask_of_next h rfl

theorem execBlx_primask {rm : Reg} {sb : BitVec 3} (h : execBlx rm sb s = .next t) : t.primask = s.primask :=
  -- the third guard is that of blxWritePc
  primask_of_next (next_of_guard (next_of_guard (next_of_guard h))) rfl

theorem execMrs_primask {rd : Reg} {sysm : BitVec 8} {sb : BitVec 6} (h : execMrs rd sysm sb s = .next t) :
    t.primask = s.primask := by
  have h := next_of_guard (next_of_guard h)
  split at h
  · cases h
  · exact primask_of_next h rfl

theorem execWfe_primask (h : execWfe s = .next t) : t.primask = s.primask := by
  unfold execWfe at h
  split at h
  · cases h
  · split at h
    · exact primask_of_next h rfl
    · split at h <;> exact primask_of_next h rfl

theorem execWfi_primask (h : execWfi s = .next t) : t.primask = s.primask := by
  unfold execWfi at h
  split at h <;> exact primask_of_next h rfl

theorem execSvc_primask (imm8 : BitVec 8) (h : execSvc imm8 s = .next t) : t.primask = s.primask := by
  have hmid : ((s.pend excSvCall).advance 2).interrupted.primask = s.primask := (interrupted_sameCore _).1.primask
  unfold execSvc at h
  split at h
  · exact raiseHardFault_primask .svcPriority h
  · dsimp only at h
    split at h
    · exact (takeException_primask h).trans hmid
    · exact primask_of_next h hmid

/-! ### MSR -/

theorem specWrite_primask {reg : SpecReg} (h : reg ≠ .primask) (v : Word) :
    (s.specWrite v reg).primask = s.primask := by
  cases reg with
  | primask => exact absurd rfl h
  | apsr | iapsr | eapsr | psr | ipsr | epsr | iepsr | msp | psp | control => rfl

/-- SYSm 16 alone names PRIMASK (45_miscellaneous.md R378). -/
theorem eq_of_specRegOf_primask {sysm : BitVec 8} (h : specRegOf sysm = some .primask) : sysm = 16 := by
  revert sysm
  decide

theorem execMsr_primask {rn : Reg} {sysm : BitVec 8} {sb : BitVec 6} (hne : sysm ≠ 16)
    (h : execMsr rn sysm sb s = .next t) : t.primask = s.primask := by
  have h := next_of_guard (next_of_guard h)
  split at h
  case h_1 => cases h
  case h_2 reg hreg =>
    refine primask_of_next h (specWrite_primask ?_ _)
    rintro rfl
    exact hne (eq_of_specRegOf_primask hreg)

/-! ### The statement -/

/-- The instructions that name PRIMASK: CPS, and MSR with SYSm 16. -/
def namesPrimask : Instr → Bool
  | .cpsie _ => true
  | .cpsid _ => true
  | .msr _ sysm _ => sysm == 16
  | _ => false

/-- Every other instruction keeps it. -/
theorem exec_primask {i : Instr} (hi : namesPrimask i = false) (h : exec i s = .next t) : t.primask = s.primask := by
  cases i with
  | cpsie | cpsid => cases hi
  -- a result or the flags are written, the stack pointer moves, or the PC is written
  | lslsImm | lsrsImm | asrsImm | addsReg | subsReg | addsImm3 | subsImm3 | movsImm | cmpImm | addsImm8 | subsImm8
  | ands | eors | lslsReg | lsrsReg | asrsReg | adcs | sbcs | rorsReg | tst | rsbs | cmpReg | cmn | orrs | muls | bics
  | mvns | adr | addSpRd | addSpImm | subSpImm | sxth | sxtb | uxth | uxtb | rev | rev16 | revsh
  | nop | yieldHint | sev | reservedHint | b | bl => exact primask_of_next h rfl
  | cmpHigh | dsb | dmb | isb => exact primask_of_next (next_of_guard h) rfl
  | addHigh => exact execAddHigh_primask h
  | movHigh => exact execMovHigh_primask h
  | bCond => exact execBCond_primask h
  | bx => exact bxWritePc_primask (next_of_guard (next_of_guard h))
  | blx => exact execBlx_primask h
  -- memory
  | ldrLit | ldrsbReg | ldrReg | ldrhReg | ldrbReg | ldrshReg | ldrImm | ldrbImm | ldrhImm | ldrSp =>
    exact loadLow_primask h
  | strReg | strhReg | strbReg | strImm | strbImm | strhImm | strSp => exact storeLow_primask h
  | ldm => exact execLdm_primask h
  | stm => exact execStm_primask h
  | push => exact execPush_primask h
  | pop => exact execPop_primask h
  -- the system
  | mrs => exact execMrs_primask h
  | msr => exact execMsr_primask (by simpa [namesPrimask] using hi) h
  | wfe => exact execWfe_primask h
  | wfi => exact execWfi_primask h
  | svc imm8 => exact execSvc_primask imm8 h
  | udf | udfW => exact raiseHardFault_primask .undefinedInstruction h
  | bkpt => exact raiseHardFault_primask .bkptNoDebugger (next_of_guard h)

/-- Settles O60: an instruction that does not name PRIMASK keeps it. -/
theorem onlyCpsAndMsrChangePrimask : Obligations.OnlyCpsAndMsrChangePrimask := by
  intro i s t h hne
  have hnames : namesPrimask i = true := by
    by_contra hi
    exact hne (exec_primask (Bool.eq_false_iff.mpr hi) h)
  cases i with
  | cpsie sb => exact .inl ⟨sb, .inl rfl⟩
  | cpsid sb => exact .inl ⟨sb, .inr rfl⟩
  | msr rn sysm sb =>
    obtain rfl : sysm = 16 := by simpa [namesPrimask] using hnames
    exact .inr ⟨rn, sb, rfl⟩
  | _ => cases hnames

end Sys2Proof.Machine
end

section
/-! PROOF. BX and POP as exception returns (60_exceptions.md R415, 41_memory_access.md R251). The idea: a run of reads
gives the words of memory in order, so the registers a POP writes are the ones that the statements call popped, and both
instructions come down to ExceptionReturn from the same state. -/

namespace Sys2Proof.Machine

open Sys2Proof.Claims

variable {s t u : State} {a addr v : Word} {i : LowReg} {ns : List LowReg} {vs : List Word} {list : RegList} {n k : Nat}

/-! ### Words read -/

/-- The n words of memory from an address on. -/
def wordsAt (s : State) (a : Word) (n : Nat) : List Word := (List.range n).map fun k => wordAt s (nth a k)

theorem wordsAt_getElem? (s : State) (a : Word) (hk : k < n) : (wordsAt s a n)[k]? = some (wordAt s (nth a k)) := by
  rw [wordsAt, List.getElem?_map, List.getElem?_range hk, Option.map_some]

theorem wordsAt_getD (s : State) (a : Word) (hk : k < n) : (wordsAt s a n).getD k 0 = wordAt s (nth a k) := by
  rw [List.getD_eq_getElem?_getD, wordsAt_getElem? s a hk, Option.getD_some]

theorem wordsAt_succ (s : State) (a : Word) (n : Nat) : wordsAt s a (n + 1) = wordAt s a :: wordsAt s (a + 4) n := by
  rw [wordsAt, List.range_succ_eq_map, List.map_cons, nth_zero, List.map_map]
  simp only [wordsAt, nth_add_four, Function.comp_def, Nat.succ_eq_add_one]

/-- A run of reads of stored bytes gives their words. -/
theorem loadWords_eq (ha : a.toNat % 4 = 0) (h : ∀ j < n, readable s (nth a j)) :
    loadWords n a s = .ok (wordsAt s a n) s := by
  induction n generalizing a with
  | zero => rfl
  | succ n ih =>
    have h0 := memRead_readable ha (by simpa using h 0 (by omega))
    have hrest := ih (add_four_aligned ha) fun j hj => by
      rw [nth_add_four]
      exact h (j + 1) (by omega)
    rw [loadWords, h0, Access.ok_bind, hrest, Access.ok_bind, wordsAt_succ]

/-! ### Listed registers written -/

theorem lo_setListed_of_not_mem (h : i ∉ ns) : (s.setListed ns vs).lo i = s.lo i := by
  induction ns generalizing s vs with
  | nil => rfl
  | cons n ns ih =>
    cases vs with
    | nil => rfl
    | cons v vs =>
      obtain ⟨hne, hns⟩ := not_or.mp (mt List.mem_cons.mpr h)
      rw [State.setListed, ih hns, State.lo_setLo, if_neg hne]

/-- Each register of a list without repetition gets the value at its place. -/
theorem lo_setListed (hns : ns.Nodup) (hi : ns[k]? = some i) (hv : vs[k]? = some v) : (s.setListed ns vs).lo i = v := by
  induction ns generalizing s vs k with
  | nil => cases hi
  | cons n ns ih =>
    obtain ⟨hn, hns⟩ := List.nodup_cons.mp hns
    cases vs with
    | nil => cases hv
    | cons w vs =>
      cases k with
      | zero =>
        cases hi
        cases hv
        rw [State.setListed, lo_setListed_of_not_mem hn, State.lo_setLo, if_pos rfl]
      | succ k => exact ih hns hi hv

theorem regs_setListed_high (hk : 8 ≤ k) : (s.setListed ns vs).r.toList.getD k 0 = s.r.toList.getD k 0 := by
  induction ns generalizing s vs with
  | nil => rfl
  | cons n ns ih =>
    cases vs with
    | nil => rfl
    | cons v vs => rw [State.setListed, ih, State.setLo_r, regs_getD_set, if_neg (by omega)]

theorem nodup_listed (list : RegList) : (listed list).Nodup := by
  have hall : ([0, 1, 2, 3, 4, 5, 6, 7] : List LowReg).Nodup := by decide
  exact hall.filter _

theorem mem_listed : i ∈ listed list ↔ list.getLsbD i.toNat = true := by
  have hall : ∀ i : LowReg, i ∈ ([0, 1, 2, 3, 4, 5, 6, 7] : List LowReg) := by decide
  rw [listed, List.mem_filter, and_iff_right (hall i)]

theorem rank_lt_bitCount (hi : list.getLsbD i.toNat = true) : rank list i < bitCount list := by
  rw [← length_listed]
  exact (List.getElem?_eq_some_iff.mp (listed_getElem?_rank i hi)).1

/-- Register files are equal where they read the same. -/
theorem regs_ext {r r' : Vector Word 13} (h : ∀ j < 13, r.toList.getD j 0 = r'.toList.getD j 0) : r = r' := by
  refine Vector.ext fun j hj => ?_
  simpa [List.getD_eq_getElem?_getD, hj] using h j hj

/-- The low registers and R8 to R12 are the whole register file. -/
theorem regs_ext_of_reads (hlo : ∀ i : LowReg, s.lo i = t.lo i) (hhigh : sameHigh t s) : s.r = t.r := by
  refine regs_ext fun j hj => ?_
  by_cases h8 : j < 8
  · have hnum : (BitVec.ofNat 3 j).toNat = j := Nat.mod_eq_of_lt h8
    simpa only [State.lo, hnum] using hlo (BitVec.ofNat 3 j)
  · have hnum : (BitVec.ofNat 4 j).toNat = j := Nat.mod_eq_of_lt (by omega)
    have h := hhigh (BitVec.ofNat 4 j) (by omega) (by omega)
    rwa [State.x_of_lt _ _ (by omega), State.x_of_lt _ _ (by omega), hnum] at h

/-- What a POP loads to its registers is what the statements call popped. -/
theorem regs_of_popped (h : popped s u list) (hn : bitCount list ≤ n) :
    (s.setListed (listed list) (wordsAt s s.sp n)).r = u.r := by
  obtain ⟨hhigh, hlo⟩ := h
  refine regs_ext_of_reads (fun i => ?_) fun m h8 h12 => ?_
  · rw [hlo i]
    split
    case isTrue hi =>
      exact lo_setListed (nodup_listed list) (listed_getElem?_rank i hi)
        (wordsAt_getElem? _ _ ((rank_lt_bitCount hi).trans_le hn))
    case isFalse hi => exact lo_setListed_of_not_mem (mt mem_listed.mp hi)
  · rw [hhigh m h8 h12, State.x_of_lt _ _ (by omega), State.x_of_lt _ _ (by omega), regs_setListed_high h8]

/-! ### The two instructions -/

/-- In Handler mode a value with bits [31:28] all ones returns from the exception. -/
theorem bxWritePc_of_return (hmode : s.ipsr ≠ 0) (haddr : 0xF0000000 ≤ addr.toNat) :
    bxWritePc addr s = exceptionReturn addr s := by
  have hhandler : s.threadMode = false := beq_eq_false_iff_ne.mpr hmode
  exact if_pos (by rw [hhandler, (excReturnLike_iff addr).mpr haddr]; rfl)

theorem usesPsp_of_handler (hmode : s.ipsr ≠ 0) : s.usesPsp = false :=
  Bool.eq_false_iff.mpr fun h => hmode ((usesPsp_iff s).mp h).1

/-- An undisturbed POP of readable words with the PC in its list. -/
theorem exec_pop_pc (hu : s.undisturbed) (hsp : s.stacksAligned)
    (hr : ∀ k < bitCount list + 1, readable s (nth s.sp k)) :
    exec (.pop true list) s = bxWritePc (wordAt s (nth s.sp (bitCount list)))
      ((s.setListed (listed list) (wordsAt s s.sp (bitCount list + 1))).setSp (nth s.sp (bitCount list + 1))) := by
  change execPop true list s = _
  rw [execPop, if_neg (by simp), loadTransfer, transfer_undisturbed hu, popCount_eq, Bool.toNat_true,
    loadWords_eq hsp.sp hr, Access.finish, length_listed, wordsAt_getD _ _ (Nat.lt_succ_self _)]
  rfl

theorem returnsBy_sameStore {i : Instr} (h : returnsBy i s addr u) : SameStore s u := by
  obtain ⟨-, -, ⟨_, -, -, -, -, rfl⟩ | ⟨_, -, -, -, -, -, hu, -⟩⟩ := h
  · exact SameStore.refl u
  · rw [hu]
    exact ⟨rfl, rfl⟩

/-- The state in which a POP in Handler mode has written its registers and the stack pointer. -/
theorem popped_state (hmode : s.ipsr ≠ 0) (hsp : s.stacksAligned)
    (hu : u = { s with r := u.r, msp := nth s.sp (bitCount list + 1) }) (hpop : popped s u list) :
    (s.setListed (listed list) (wordsAt s s.sp (bitCount list + 1))).setSp (nth s.sp (bitCount list + 1)) = u := by
  have huse : State.usesPsp { s with r := u.r } = false := usesPsp_of_handler hmode
  rw [setListed_eq, regs_of_popped hpop (Nat.le_succ _), State.setSp]
  simp only [huse, wordAligned_of_mod (nth_aligned hsp.sp _), Bool.false_eq_true, if_false]
  exact hu.symm

/-- The instruction is ExceptionReturn from the state that the statements return from. -/
theorem exec_of_returnsBy {i : Instr} (h : returnsBy i s addr u) : exec i s = exceptionReturn addr u := by
  obtain ⟨hmode, haddr, ⟨rm, rfl, h13, h15, rfl, rfl⟩ | ⟨list, rfl, hund, hsp, hr, rfl, hu, hpop⟩⟩ := h
  · rw [exec_bx h13 h15, bxWritePc_of_return hmode haddr]
  · have hmode' : u.ipsr ≠ 0 := by rwa [hu]
    rw [exec_pop_pc hund hsp hr, popped_state hmode hsp hu hpop, bxWritePc_of_return hmode' haddr]

/-- Where the EXC_RETURN value agrees with the active exceptions, the return sequence runs. -/
theorem exec_of_returnsBy_agrees {i : Instr} (h : returnsBy i s addr u) (ha : returnAgrees u addr) :
    exec i s = returnSequence addr u := by
  rw [exec_of_returnsBy h, exceptionReturn]
  obtain ⟨rfl, hothers⟩ | ⟨rfl | rfl, hothers⟩ := ha
  · rw [if_pos rfl, if_pos hothers]
  · rw [if_neg (by decide), if_pos (.inl rfl), if_neg (ne_true_of_eq_false hothers)]
  · rw [if_neg (by decide), if_pos (.inr rfl), if_neg (ne_true_of_eq_false hothers)]

theorem returnSequence_of_none (h : u.deactivateCurrent.preempting = none) :
    returnSequence addr u = unstack addr u.deactivateCurrent := by rw [returnSequence, h]

theorem returnSequence_of_some (h : u.deactivateCurrent.preempting = some n) :
    returnSequence addr u = startHandler n addr u.deactivateCurrent := by rw [returnSequence, h]

theorem readable_congr (h : SameStore s t) : readable t a ↔ readable s a := by rw [readable, readable, h.kindAt]

end Sys2Proof.Machine
end

section
/-! PROOF. The frame checked and restored by an exception return (60_exceptions.md R416, R417). The idea: with its frame
readable a return is the check of the stacked words and then the restore, whose stack pointer ends where the frame
does. -/

namespace Sys2Proof.Machine

open Sys2Proof.Claims

variable {s u : State} {a addr psr : Word} {ws : List Word} {th ps : Bool}

/-! ### The frame of a return -/

/-- An EXC_RETURN value that the processor knows (60_exceptions.md R416). -/
abbrev KnownReturn (addr : Word) : Prop := addr = 0xFFFFFFF1#32 ∨ addr = 0xFFFFFFF9#32 ∨ addr = 0xFFFFFFFD#32

theorem knownReturn_of_agrees (h : returnAgrees u addr) : KnownReturn addr := by
  obtain ⟨h, -⟩ | ⟨h, -⟩ := h
  · exact .inl h
  · exact .inr h

theorem KnownReturn.toThread (h : KnownReturn addr) : addr.getLsbD 3 = decide (addr ≠ 0xFFFFFFF1#32) := by
  obtain rfl | rfl | rfl := h <;> decide

theorem KnownReturn.usePsp (h : KnownReturn addr) : addr.getLsbD 2 = decide (addr = 0xFFFFFFFD#32) := by
  obtain rfl | rfl | rfl := h <;> decide

/-- The process stack is returned to in Thread mode only. -/
theorem toThread_and_usePsp (addr : Word) :
    (decide (addr ≠ 0xFFFFFFF1#32) && decide (addr = 0xFFFFFFFD#32)) = decide (addr = 0xFFFFFFFD#32) := by
  by_cases h : addr = 0xFFFFFFFD#32
  · subst h
    decide
  · rw [decide_eq_false h, Bool.and_false]

theorem frameOf_eq (s : State) (addr : Word) :
    (if decide (addr = 0xFFFFFFFD#32) then s.psp else s.msp) = frameOf s addr := by
  simp only [decide_eq_true_eq, frameOf]

theorem frameOf_aligned (h : s.stacksAligned) (addr : Word) : (frameOf s addr).toNat % 4 = 0 := by
  unfold frameOf
  split
  · exact h.2
  · exact h.1

theorem nth_seven (a : Word) : a + 28 = nth a 7 := rfl

/-- With a readable frame unstacking is the check of the frame. -/
theorem unstack_of_readable (hknown : KnownReturn addr) (hsp : s.stacksAligned)
    (h : ∀ k < 8, readable s (nth (frameOf s addr) k)) :
    unstack addr s = unstackFrame (decide (addr ≠ 0xFFFFFFF1#32)) (decide (addr = 0xFFFFFFFD#32))
      (wordsAt s (frameOf s addr) 7) (wordAt s (nth (frameOf s addr) 7)) s := by
  have ha := frameOf_aligned hsp addr
  simp only [unstack, hknown.toThread, hknown.usePsp, frameOf_eq, nth_seven,
    loadWords_eq ha fun j (hj : j < 7) => h j (by omega), memRead_readable (nth_aligned ha 7) (h 7 (by decide))]

/-! ### The check and the restore -/

theorem isActive_iff (v : Nvic) (n : Nat) : v.isActive n = true ↔ n ∈ exceptionNumbers ∧ v.active.getLsbD n = true := by
  rw [Nvic.isActive, Bool.and_eq_true, List.contains_iff_mem]

/-- The stacked exception number fits the mode returned to (60_exceptions.md R417). -/
def FrameFits (s : State) (toThread : Bool) (number : BitVec 6) : Prop :=
  (toThread = true ∧ number = 0) ∨
  (toThread = false ∧ number.toNat ∈ exceptionNumbers ∧ s.nvic.active.getLsbD number.toNat = true)

theorem unstackFrame_of_odd (h : (ws.getD 6 0).getLsbD 0 = true) :
    unstackFrame th ps ws psr s = .refused .oddReturnAddress := if_pos h

theorem unstackFrame_of_fits (heven : (ws.getD 6 0).getLsbD 0 = false) (h : FrameFits s th (psr.setWidth 6)) :
    unstackFrame th ps ws psr s = .next (s.restore th ps ws psr) := by
  rw [unstackFrame, if_neg (ne_true_of_eq_false heven)]
  obtain ⟨rfl, hzero⟩ | ⟨rfl, hmem, hact⟩ := h
  · rw [hzero]
    rfl
  · have hne : (psr.setWidth 6 == 0#6) = false := beq_eq_false_iff_ne.mpr fun hzero => by
      rw [hzero] at hmem
      exact absurd hmem (by decide)
    rw [hne, (isActive_iff _ _).mpr ⟨hmem, hact⟩]
    rfl

theorem unstackFrame_of_not_fits (heven : (ws.getD 6 0).getLsbD 0 = false) (h : ¬ FrameFits s th (psr.setWidth 6)) :
    unstackFrame th ps ws psr s = .refused .badStackedIpsr := by
  rw [unstackFrame, if_neg (ne_true_of_eq_false heven)]
  cases th with
  | true =>
    have hne : (psr.setWidth 6 == 0#6) = false := beq_eq_false_iff_ne.mpr fun hzero => h (.inl ⟨rfl, hzero⟩)
    rw [hne]
    rfl
  | false =>
    have hact : s.nvic.isActive (psr.setWidth 6).toNat = false := Bool.eq_false_iff.mpr fun hact =>
      h (.inr ⟨rfl, (isActive_iff _ _).mp hact⟩)
    rw [hact]
    cases psr.setWidth 6 == 0#6 <;> rfl

/-- The stack pointer moves past the frame, and past the word that aligned it; both keep a multiple of 4 one. -/
theorem restoredSp_eq (h : a.toNat % 4 = 0) (p : Bool) :
    wordAligned ((a + 32) ||| bitWord p 2) = (a + 32) ||| (if p then 4#32 else 0#32) := by
  have hbit : bitWord p 2 = if p then 4#32 else 0#32 := by cases p <;> rfl
  rw [hbit]
  refine wordAligned_of_mod ?_
  have hsum : (a + 32).toNat % 2 ^ 2 = 0 := by
    rw [BitVec.toNat_add]
    simp
    omega
  have hword : (if p then 4#32 else 0#32).toNat % 2 ^ 2 = 0 := by cases p <;> rfl
  change _ % 2 ^ 2 = 0
  rw [BitVec.toNat_or, Nat.or_mod_two_pow, hsum, hword]
  rfl

/-- The registers of a restored frame: R0 to R3 and R12 from its first five words, the others as before. -/
theorem x_restore (s : State) (th ps : Bool) (ws : List Word) (psr : Word) :
    (s.restore th ps ws psr).x 0 = ws.getD 0 0 ∧ (s.restore th ps ws psr).x 1 = ws.getD 1 0 ∧
    (s.restore th ps ws psr).x 2 = ws.getD 2 0 ∧ (s.restore th ps ws psr).x 3 = ws.getD 3 0 ∧
    (s.restore th ps ws psr).x 12 = ws.getD 4 0 ∧
    ∀ m : Reg, 4 ≤ m.toNat → m.toNat ≤ 11 → (s.restore th ps ws psr).x m = s.x m := by
  refine ⟨?_, ?_, ?_, ?_, ?_, fun m h4 h11 => ?others⟩
  case others =>
    rw [State.x_of_lt _ _ (by omega), State.x_of_lt _ _ (by omega)]
    simp only [State.restore_r, restoreRegs, regs_getD_set]
    repeat rw [if_neg (by omega)]
  all_goals
    rw [State.x_of_lt _ _ (by decide)]
    simp [restoreRegs]

/-- The restore with the stack pointer returned to written as the frame's end. -/
theorem restore_eq (hsp : s.stacksAligned) (addr : Word) (ws : List Word) (psr : Word) :
    let sp := (frameOf s addr + 32) ||| (if psr.getLsbD 9 then 4#32 else 0#32)
    s.restore (decide (addr ≠ 0xFFFFFFF1#32)) (decide (addr = 0xFFFFFFFD#32)) ws psr =
      { s with
        r := restoreRegs s.r ws, lr := ws.getD 5 0, pc := ws.getD 6 0
        msp := if decide (addr = 0xFFFFFFFD#32) then s.msp else sp
        psp := if decide (addr = 0xFFFFFFFD#32) then sp else s.psp
        flags := ⟨psr.getLsbD 31, psr.getLsbD 30, psr.getLsbD 29, psr.getLsbD 28⟩
        thumb := psr.getLsbD 24, ipsr := psr.setWidth 6, spsel := decide (addr = 0xFFFFFFFD#32)
        run := if decide (addr ≠ 0xFFFFFFF1#32) && s.scr.sleepOnExit then .sleeping .wfi else .running } := by
  rw [State.restore, toThread_and_usePsp, restoredSp_eq hsp.1, restoredSp_eq hsp.2, frameOf]
  by_cases h : addr = 0xFFFFFFFD#32
  · simp only [decide_eq_true h, if_true, if_pos h]
    rfl
  · simp only [decide_eq_false h, Bool.false_eq_true, if_false, if_neg h]
    rfl

/-- Settles O35: the frame is read word by word, checked, and restored. -/
theorem returnsRestoreTheFrame : Obligations.ReturnsRestoreTheFrame := by
  intro i s u addr hret hsp hagrees hnone hr w usePsp toThread sp number fits
  have hknown := knownReturn_of_agrees hagrees
  have hstore := returnsBy_sameStore hret
  have hword (k : Nat) (hk : k < 7) : (wordsAt u.deactivateCurrent (frameOf u addr) 7).getD k 0 = w k := by
    rw [wordsAt_getD _ _ hk]
    exact wordAt_of_mem hstore.mem _
  have hpsr : wordAt u.deactivateCurrent (nth (frameOf u addr) 7) = w 7 := wordAt_of_mem hstore.mem _
  have hrun : exec i s = unstackFrame toThread usePsp (wordsAt u.deactivateCurrent (frameOf u addr) 7) (w 7)
      u.deactivateCurrent := by
    rw [exec_of_returnsBy_agrees hret hagrees, returnSequence_of_none hnone, ← hpsr]
    exact unstack_of_readable (s := u.deactivateCurrent) hknown hsp fun k hk => (readable_congr hstore).mpr (hr k hk)
  rw [hrun]
  refine ⟨fun hodd => ?odd, fun heven hfits => ?misfit, fun heven hfits => ?restored⟩
  case odd => exact unstackFrame_of_odd (by rw [hword 6 (by decide), hodd])
  case misfit => exact unstackFrame_of_not_fits (by rw [hword 6 (by decide), heven]) hfits
  case restored =>
    refine ⟨_, unstackFrame_of_fits (by rw [hword 6 (by decide), heven]) hfits, ?frame, ?registers⟩
    case registers =>
      rw [← hword 0 (by decide), ← hword 1 (by decide), ← hword 2 (by decide), ← hword 3 (by decide),
        ← hword 4 (by decide)]
      exact x_restore u.deactivateCurrent _ _ _ _
    case frame =>
      have h := restore_eq (s := u.deactivateCurrent) hsp addr (wordsAt u.deactivateCurrent (frameOf u addr) 7) (w 7)
      rw [hword 5 (by decide), hword 6 (by decide)] at h
      rw [h]
      rfl

end Sys2Proof.Machine
end

section
/-! PROOF. The frame handed on to the next handler (60_exceptions.md R418), and the bus errors of exception entry and
return (R425, R426). The idea: a vector fetch enters the handler or fails at one address, and a run of accesses stops at
its first bus error, whatever stands behind it. -/

namespace Sys2Proof.Machine

open Sys2Proof.Claims

variable {s u : State} {a addr link ra : Word} {ws : List Word} {n k : Nat}

/-! ### The vector fetch -/

/-- The vectors lie below the private peripheral bus. -/
theorem inPpb_vectorAddress (h : n ∈ exceptionNumbers) : inPpb (vectorAddress n) = false := by
  have hall : ∀ n ∈ exceptionNumbers, inPpb (vectorAddress n) = false := by decide
  exact hall n h

theorem startHandler_of_readable (link : Word) (h : readable s (vectorAddress n)) :
    startHandler n link s = .next ((s.enterMode n link).toVector (wordAt s (vectorAddress n))).clobber := by
  simp only [startHandler, memRead_readable (s := s.enterMode n link) (vectorAddress_aligned n) h]
  rfl

theorem startDerived_of_readable (h : readable s (vectorAddress 3)) :
    startDerived n s = .next ((s.enterDerived n).toVector (wordAt s (vectorAddress 3))).clobber := by
  simp only [startDerived, excHardFault, memRead_readable (s := s.enterDerived n) (vectorAddress_aligned 3) h]
  rfl

theorem startDerived_of_unreadable (h : unreadable s (vectorAddress 3)) :
    startDerived n s = .next (s.enterDerived n).lockUp := by
  simp only [startDerived, excHardFault, memRead_unreadable (s := s.enterDerived n) (vectorAddress_aligned 3) h]

theorem startHandler_of_unreadable (link : Word) (h : unreadable s (vectorAddress n)) :
    startHandler n link s =
      if n = 3 ∨ n = 2 then .next (s.enterMode n link).lockUp else startDerived n (s.enterMode n link) := by
  simp only [startHandler, memRead_unreadable (s := s.enterMode n link) (vectorAddress_aligned n) h]
  rfl

/-- A handler that starts on a frame that stands already. -/
theorem handlerEntered_toVector (n : Nat) (link : Word) (s : State) :
    handlerEntered n link s ((s.enterMode n link).toVector (wordAt s (vectorAddress n))).clobber := by
  have hvector : wordAt ((s.enterMode n link).toVector (wordAt s (vectorAddress n))).clobber (vectorAddress n) =
      wordAt s (vectorAddress n) := wordAt_of_mem (by simp) _
  refine ⟨?ipsr, ?spsel, ?lr, ?run, ?pc, ?thumb, ?nvic, fun m h4 h11 => ?registers, ?kept⟩
  case ipsr | spsel | lr | run | kept => simp
  case pc | thumb => simp [hvector]
  case nvic =>
    simp only [State.clobber_nvic, State.toVector_nvic, State.enterMode_nvic]
    rfl
  case registers =>
    rw [State.x_of_lt _ _ (by omega), State.x_of_lt _ _ (by omega)]
    simp only [State.clobber_r, clobberRegs, regs_getD_set, State.toVector_r, State.enterMode_r]
    repeat rw [if_neg (by omega)]

/-- Settles O36: the return sequence starts the handler at once. -/
theorem tailChainingKeepsTheFrame : Obligations.TailChainingKeepsTheFrame := by
  intro i s u addr m hret hagrees hm hr
  have hstore := returnsBy_sameStore hret
  have hrun : exec i s = startHandler m addr u.deactivateCurrent := by
    rw [exec_of_returnsBy_agrees hret hagrees, returnSequence_of_some hm]
  refine ⟨_, hrun.trans (startHandler_of_readable addr ((readable_congr hstore).mpr hr)),
    handlerEntered_toVector m addr u.deactivateCurrent, ?mem, ?msp, ?psp⟩
  case mem => simpa using hstore.mem
  case msp | psp => simp

/-! ### Bus errors -/

theorem setBit_clearBit {w : Nat} (b : BitVec w) (n : Nat) : setBit (clearBit b n) n = setBit b n := by
  ext i hi
  simp only [clearBit, setBit, BitVec.getElem_and, BitVec.getElem_or, BitVec.getElem_not]
  cases (bitMask w n)[i] <;> simp

/-- HardFault in place of an exception whose handler was about to start: that exception is pending again and not
active (60_exceptions.md R425). -/
theorem nvic_enterDerived (s : State) (n : Nat) (link : Word) :
    ((s.enterMode n link).enterDerived n).nvic.pending = setBit s.nvic.pending n ∧
    ((s.enterMode n link).enterDerived n).nvic.active = setBit (clearBit s.nvic.active n) 3 := by
  refine ⟨setBit_clearBit s.nvic.pending n, ?_⟩
  change setBit (clearBit (setBit s.nvic.active n) n) 3 = _
  rw [clearBit_setBit]

/-- A vector fetch that fails, of an exception below HardFault: HardFault is entered on the same frame. -/
theorem startHandler_derived (link : Word) (h : unreadable s (vectorAddress n)) (h2 : n ≠ 2) (h3 : n ≠ 3)
    (hr : readable s (vectorAddress 3)) :
    ∃ t, startHandler n link s = .next t ∧ t.ipsr = 3 ∧ t.lr = link ∧ t.spsel = false ∧
      t.pc = halfAligned (wordAt s (vectorAddress 3)) ∧ t.thumb = (wordAt s (vectorAddress 3)).getLsbD 0 ∧
      t.nvic.pending = setBit s.nvic.pending n ∧ t.nvic.active = setBit (clearBit s.nvic.active n) 3 ∧
      t.mem = s.mem ∧ t.msp = s.msp ∧ t.psp = s.psp := by
  obtain ⟨hpending, hactive⟩ := nvic_enterDerived s n link
  have hrun := startHandler_of_unreadable link h
  rw [if_neg (not_or_intro h3 h2), startDerived_of_readable (s := s.enterMode n link) hr] at hrun
  refine ⟨_, hrun, ?ipsr, ?lr, ?spsel, ?pc, ?thumb, hpending, hactive, ?memory⟩
  case ipsr | lr | spsel | memory => simp
  case pc | thumb => rw [wordAt_of_mem (State.enterMode_mem s n link)]; simp

/-- A vector fetch that fails with nothing to enter in its place: the processor locks up in the mode it had reached. -/
theorem startHandler_locks (link : Word) (h : unreadable s (vectorAddress n))
    (hlock : n = 2 ∨ n = 3 ∨ unreadable s (vectorAddress 3)) :
    ∃ t, startHandler n link s = .next t ∧ t.run = .lockup ∧ t.r = s.r ∧ t.lr = link ∧ t.pc = s.pc ∧ t.mem = s.mem ∧
      t.msp = s.msp ∧ t.psp = s.psp := by
  have hrun := startHandler_of_unreadable link h
  by_cases hn : n = 3 ∨ n = 2
  · rw [if_pos hn] at hrun
    exact ⟨_, hrun, rfl, rfl, rfl, rfl, rfl, rfl, rfl⟩
  · obtain ⟨h3, h2⟩ := not_or.mp hn
    have hderived := (hlock.resolve_left h2).resolve_left h3
    rw [if_neg hn, startDerived_of_unreadable (s := s.enterMode n link) hderived] at hrun
    exact ⟨_, hrun, rfl, rfl, rfl, rfl, rfl, rfl, rfl⟩

/-- A bus error on one of the first seven words of a frame (60_exceptions.md R425, U26). -/
theorem unstack_of_unreadable (hknown : KnownReturn addr) (hsp : s.stacksAligned) (hk : k < 7)
    (h : ∀ j < k, readable s (nth (frameOf s addr) j)) (hbad : unreadable s (nth (frameOf s addr) k)) :
    unstack addr s = .fault .unstackingBusError := by
  simp only [unstack, hknown.usePsp, frameOf_eq, loadWords_unreadable (frameOf_aligned hsp addr) hk h hbad]

/-- A bus error on the PSR word: through MSP it locks up (60_exceptions.md R426). -/
theorem unstack_of_unreadable_psr (hknown : KnownReturn addr) (hsp : s.stacksAligned)
    (h : ∀ j < 7, readable s (nth (frameOf s addr) j)) (hbad : unreadable s (nth (frameOf s addr) 7)) :
    unstack addr s = if addr = 0xFFFFFFFD#32 then .fault .unstackingBusError else .next s.lockUp := by
  have ha := frameOf_aligned hsp addr
  simp only [unstack, hknown.usePsp, frameOf_eq, nth_seven, loadWords_eq ha h,
    memRead_unreadable (nth_aligned ha 7) hbad]
  simp only [decide_eq_true_eq]

/-- A run of writes faults at its first bus error, whatever memory holds. -/
theorem storeWords_faults (ha : a.toNat % 4 = 0) (hk : k < ws.length) (h : ∀ j < k, writable s (nth a j))
    (hbad : unwritable s (nth a k)) : ∃ t, storeWords ws a s = .abort .busError t := by
  induction k generalizing ws a s with
  | zero =>
    obtain ⟨w, ws, rfl⟩ := List.exists_cons_of_length_pos hk
    exact ⟨s, by rw [storeWords, memWrite_unwritable ha (by simpa using hbad), Access.abort_bind]⟩
  | succ k ih =>
    obtain ⟨w, ws, rfl⟩ := List.exists_cons_of_length_pos (Nat.zero_lt_of_lt hk)
    obtain ⟨hp, hram⟩ : writable s a := by simpa using h 0 (by omega)
    obtain ⟨t, ht⟩ := ih (s := s.store 4 a w) (ws := ws) (add_four_aligned ha) (by simpa using hk)
      (fun j hj => by rw [nth_add_four]; exact h (j + 1) (by omega)) (by rw [nth_add_four]; exact hbad)
    exact ⟨t, by rw [storeWords, memWrite_ram ha hp hram, Access.ok_bind, ht]⟩

theorem takeException_faults (hreset : s.env.resetInEntry = none) (hsp : s.stacksAligned) (hk : k < 8)
    (h : ∀ j < k, writable s (nth s.framePointer j)) (hbad : unwritable s (nth s.framePointer k)) :
    takeException n ra s = .fault .stackingBusError := by
  obtain ⟨t, ht⟩ := storeWords_faults (ws := s.frameWords ra) (framePointer_aligned hsp) hk h hbad
  rw [takeException_undisturbed hreset, enterException, ht]

/-- Settles O38: a vector fetch, a frame read and a stacking, each stopped at its first bus error. -/
theorem busErrorsInEntryAndReturn : Obligations.BusErrorsInEntryAndReturn := by
  refine ⟨fun s n link hn habsent => ?vector, fun i s u addr k hret hsp hagrees hnone hk hr hbad => ?frame,
    fun s n ra k hreset hsp hk hw hbad => takeException_faults hreset hsp hk hw hbad⟩
  case vector =>
    have hfails : unreadable s (vectorAddress n) := ⟨inPpb_vectorAddress hn, habsent⟩
    exact ⟨fun h2 h3 hr => startHandler_derived link hfails h2 h3 hr,
      fun hlock => startHandler_locks link hfails (hlock.imp_right (.imp_right (⟨inPpb_vectorAddress (by decide), ·⟩)))⟩
  case frame =>
    have hknown := knownReturn_of_agrees hagrees
    have hstore := returnsBy_sameStore hret
    have hread (j : Nat) (hj : j < k) : readable u.deactivateCurrent (nth (frameOf u addr) j) :=
      (readable_congr hstore).mpr (hr j hj)
    have hfails : unreadable u.deactivateCurrent (nth (frameOf u addr) k) := ⟨hbad.1, (hstore.kindAt _).trans hbad.2⟩
    rw [exec_of_returnsBy_agrees hret hagrees, returnSequence_of_none hnone]
    by_cases h7 : k = 7
    · subst h7
      rw [unstack_of_unreadable_psr (s := u.deactivateCurrent) hknown hsp hread hfails]
      exact ⟨fun _ hmsp => if_neg hmsp, fun hpsp => if_pos (hpsp.resolve_left (not_not.mpr rfl))⟩
    · exact ⟨fun h => absurd h h7,
        fun _ => unstack_of_unreadable (s := u.deactivateCurrent) hknown hsp (by omega) hread hfails⟩

end Sys2Proof.Machine
end

section
/-! PROOF. The single loads and stores where a device, a ROM that ignores the store or a core peripheral answers
(20_memory.md R105, R106, R110, 70_reset_and_hazards.md R493). The idea: every form is the one load or the one store of
its width at its address, so that each place needs one rule for a read and one for a write. -/

namespace Sys2Proof.Machine

open Sys2Proof.Claims

variable {s t : State} {a v : Word} {n : Nat} {rt : LowReg} {reg : PpbReg} {r : Refusal}

/-! ### The forms -/

/-- Extension reads the low bytes only. -/
theorem extended_lowBytes (n : Nat) (signed : Bool) (v : Word) :
    extended n signed (lowBytes n v) = extended n signed v := by
  have hlow : (lowBytes n v).setWidth (8 * n) = v.setWidth (8 * n) := BitVec.eq_of_toNat_eq <| by
    have hlt : v.toNat % 2 ^ (8 * n) < 2 ^ 32 := (Nat.mod_le _ _).trans_lt v.isLt
    rw [lowBytes, BitVec.toNat_setWidth, BitVec.toNat_setWidth, BitVec.toNat_ofNat, Nat.mod_eq_of_lt hlt, Nat.mod_mod]
  rw [extended, extended, hlow]

/-- A word fills the register, whatever the extension. -/
theorem extended_four (signed : Bool) (v : Word) : extended 4 signed v = v := by
  cases signed
  · exact (BitVec.setWidth_eq _).trans (BitVec.setWidth_eq v)
  · exact (BitVec.signExtend_eq _).trans (BitVec.setWidth_eq v)

theorem exec_of_mem_loadForms {rn rm : LowReg} {imm5 : BitVec 5} {imm8 : BitVec 8} {i : Instr} {signed : Bool}
    (h : (i, a, n, signed) ∈ loadForms s rt rn rm imm5 imm8) :
    exec i s = loadLow n (extended n signed) rt a s := by
  have hword : extended 4 false = id := funext (extended_four false)
  have hforms : ∀ f ∈ loadForms s rt rn rm imm5 imm8,
      exec f.1 s = loadLow f.2.2.1 (extended f.2.2.1 f.2.2.2) rt f.2.1 s := by
    simp only [loadForms, List.forall_mem_cons, hword]
    exact ⟨rfl, rfl, rfl, rfl, rfl, rfl, rfl, rfl, rfl, rfl, nofun⟩
  exact hforms _ h

theorem exec_of_mem_storeForms {rn rm : LowReg} {imm5 : BitVec 5} {imm8 : BitVec 8} {i : Instr}
    (h : (i, a, n) ∈ storeForms s rt rn rm imm5 imm8) : exec i s = storeLow n rt a s := by
  have hforms : ∀ f ∈ storeForms s rt rn rm imm5 imm8, exec f.1 s = storeLow f.2.2 rt f.2.1 s := by
    simp only [storeForms, List.forall_mem_cons]
    exact ⟨rfl, rfl, rfl, rfl, rfl, rfl, rfl, nofun⟩
  exact hforms _ h

/-! ### What the access answers -/

/-- The flags are those of the state before: a read leaves them alone. -/
theorem loadLow_of_ok (ext : Word → Word) (rt : LowReg) (h : memRead n a s = .ok v t) :
    loadLow n ext rt a s = .next (wrote t rt (ext v) s.flags) := by
  rw [loadLow, h, ← (memRead_sameCore h).1.flags]
  rfl

theorem loadLow_of_refused (ext : Word → Word) (rt : LowReg) (h : memRead n a s = .refused r) :
    loadLow n ext rt a s = .refused r := by
  rw [loadLow, h]
  rfl

theorem storeLow_of_ok (h : memWrite n a (s.lo rt) s = .ok () t) : storeLow n rt a s = .next (t.advance 2) := by
  rw [storeLow, h]
  rfl

theorem storeLow_of_refused (h : memWrite n a (s.lo rt) s = .refused r) : storeLow n rt a s = .refused r := by
  rw [storeLow, h]
  rfl

/-! ### Devices and ROM -/

theorem memRead_device (hal : a.toNat % n = 0) (hp : inPpb a = false) (hk : s.kindAt a = .device) :
    memRead n a s = .ok (lowBytes n s.deviceValue) s.deviceRead := by
  simp [memRead, hal, hp, hk]

theorem memWrite_device (hal : a.toNat % n = 0) (hp : inPpb a = false) (hk : s.kindAt a = .device) :
    memWrite n a v s = .ok () s.deviceWritten := by
  simp [memWrite, hal, hp, hk]

theorem memWrite_romIgnore (hal : a.toNat % n = 0) (hp : inPpb a = false) (hk : s.kindAt a = .romIgnore) :
    memWrite n a v s = .ok () s := by
  simp [memWrite, hal, hp, hk]

theorem deviceValue_nil (h : s.answers = []) : s.deviceValue = s.freeValue := by rw [State.deviceValue, h]

theorem deviceValue_cons {d : DeviceAnswer} {ds : List DeviceAnswer} (h : s.answers = d :: ds) :
    s.deviceValue = d.value := by rw [State.deviceValue, h]

theorem deviceRead_nil (h : s.answers = []) : s.deviceRead = s.drawn 1 := by rw [State.deviceRead, h]

theorem deviceRead_cons {d : DeviceAnswer} {ds : List DeviceAnswer} (h : s.answers = d :: ds) :
    s.deviceRead = { s with answers := ds } := by rw [State.deviceRead, h]

theorem deviceWritten_nil (h : s.answers = []) : s.deviceWritten = s := by rw [State.deviceWritten, h]

theorem deviceWritten_cons {d : DeviceAnswer} {ds : List DeviceAnswer} (h : s.answers = d :: ds) :
    s.deviceWritten = { s.setMap (d.newMap.getD s.platform.memMap) with answers := ds } := by
  rw [State.deviceWritten, h]

theorem loadLow_device (signed : Bool) (rt : LowReg) (hal : a.toNat % n = 0) (hp : inPpb a = false)
    (hk : s.kindAt a = .device) :
    loadLow n (extended n signed) rt a s = .next (wrote s.deviceRead rt (extended n signed s.deviceValue) s.flags) := by
  rw [loadLow_of_ok _ _ (memRead_device hal hp hk), extended_lowBytes]

/-! ### Core peripherals -/

/-- Every listed register lies in the range of the core peripherals (20_memory.md R101). -/
theorem inPpb_of_ppbRegAt (h : ppbRegAt a = some reg) : inPpb a = true := by
  by_contra hp
  have hne (w : Word) (hw : inPpb w = true) : a ≠ w := by
    rintro rfl
    exact hp hw
  have hprio : ¬ (0xE000E400 ≤ a.toNat ∧ a.toNat < 0xE000E420 ∧ a.toNat % 4 = 0) := by
    simp only [inPpb, Bool.and_eq_true, decide_eq_true_eq] at hp
    omega
  simp (disch := decide) [ppbRegAt, hne, hprio] at h

theorem memRead_ppb (hal : a.toNat % 4 = 0) (h : ppbRegAt a = some reg) :
    memRead 4 a s = .ok (s.ppbRead reg).1 (s.ppbRead reg).2 := by
  simp [memRead, hal, h, inPpb_of_ppbRegAt h]

theorem memWrite_ppb (hal : a.toNat % 4 = 0) (h : ppbRegAt a = some reg) : memWrite 4 a v s = s.ppbWrite v reg := by
  simp [memWrite, hal, h, inPpb_of_ppbRegAt h]

theorem access_ppbUnlisted (hal : a.toNat % 4 = 0) (hp : inPpb a = true) (h : ppbRegAt a = none) :
    memRead 4 a s = .refused .ppbUnlisted ∧ memWrite 4 a v s = .refused .ppbUnlisted := by
  simp [memRead, memWrite, hal, hp, h]

theorem access_ppbAccessSize (hal : a.toNat % n = 0) (hp : inPpb a = true) (hn : n ≠ 4) :
    memRead n a s = .refused .ppbAccessSize ∧ memWrite n a v s = .refused .ppbAccessSize := by
  simp [memRead, memWrite, hal, hp, hn]

/-! ### The statement -/

/-- Settles O24: each form is the load or the store of its width, and each place that can answer has its rule. -/
theorem devicesAndPeripheralsAnswer : Obligations.DevicesAndPeripheralsAnswer := by
  intro s rt rn rm imm5 imm8 i a n hal
  refine ⟨fun signed hi => ⟨fun hp hk => ?loadDevice, fun reg hn hreg => ?loadPpb⟩,
    fun hi => ⟨fun hp hk => ?storeDevice, fun hp hk => ?storeRom, fun reg hn hreg => ?storePpb⟩, fun hi hp => ?refused⟩
  case loadDevice =>
    rw [exec_of_mem_loadForms hi, loadLow_device signed rt hal hp hk]
    refine ⟨fun h => ?_, fun d ds h => ?_⟩
    · rw [deviceRead_nil h, deviceValue_nil h]
      rfl
    · rw [deviceRead_cons h, deviceValue_cons h]
  case loadPpb =>
    subst hn
    rw [exec_of_mem_loadForms hi, loadLow_of_ok _ _ (memRead_ppb hal hreg), extended_four]
  case storeDevice =>
    rw [onlyMoves, exec_of_mem_storeForms hi, storeLow_of_ok (memWrite_device hal hp hk)]
    refine ⟨fun h => ?_, fun d ds h => ?_⟩
    · rw [deviceWritten_nil h]
      rfl
    · rw [deviceWritten_cons h]
      rfl
  case storeRom =>
    exact (exec_of_mem_storeForms hi).trans (storeLow_of_ok (memWrite_romIgnore hal hp hk))
  case storePpb =>
    subst hn
    rw [exec_of_mem_storeForms hi]
    exact ⟨fun t h => storeLow_of_ok ((memWrite_ppb hal hreg).trans h),
      fun r h => storeLow_of_refused ((memWrite_ppb hal hreg).trans h)⟩
  case refused =>
    have hrefused {r : Refusal} (h : memRead n a s = .refused r ∧ memWrite n a (s.lo rt) s = .refused r) :
        exec i s = .refused r := by
      obtain ⟨signed, hi⟩ | hi := hi
      · exact (exec_of_mem_loadForms hi).trans (loadLow_of_refused _ _ h.1)
      · exact (exec_of_mem_storeForms hi).trans (storeLow_of_refused h.2)
    refine ⟨fun hn hreg => ?_, fun hn => hrefused (access_ppbAccessSize hal hp hn)⟩
    subst hn
    exact hrefused (access_ppbUnlisted hal hp hreg)

end Sys2Proof.Machine
end

section
/-! PROOF. The reset that a program requests through AIRCR (70_reset_and_hazards.md R483, 10_state.md R53). -/

namespace Sys2Proof.Machine

variable {s : State} {v : Word}

/-- The key is the upper half of the word. -/
theorem upperHalf_eq_aircrKey_iff : v.extractLsb' 16 16 = aircrKey ↔ v.toNat / 2 ^ 16 = 0x05FA := by
  have hlt : v.toNat / 2 ^ 16 < 2 ^ 16 := Nat.div_lt_of_lt_mul v.isLt
  rw [← BitVec.toNat_inj, BitVec.extractLsb'_toNat, Nat.shiftRight_eq_div_pow, Nat.mod_eq_of_lt hlt]
  rfl

theorem ppbWrite_aircr_of_key (hkey : v.toNat / 2 ^ 16 = 0x05FA) (hclear : v.getLsbD 1 = false) :
    s.ppbWrite v .aircr = .ok () (s.requestReset (v.getLsbD 2)) := by
  rw [State.ppbWrite, if_pos (upperHalf_eq_aircrKey_iff.mpr hkey), hclear]
  rfl

theorem ppbWrite_aircr_of_no_key (hkey : v.toNat / 2 ^ 16 ≠ 0x05FA) : s.ppbWrite v .aircr = .ok () s :=
  if_neg (mt upperHalf_eq_aircrKey_iff.mp hkey)

/-- With nothing scheduled the environment does what it does when idle. -/
theorem nextEnv_of_future_nil (h : s.future = []) : s.nextEnv = { s with env := s.idleEnv } := by
  rw [State.nextEnv, h]

/-- Settles O54: the upper half of the word decides on the key, and an idle environment asserts reset exactly where one
is requested. -/
theorem requestedResetIsAnswered : Obligations.RequestedResetIsAnswered := by
  intro s v
  refine ⟨fun hkey hclear hreq => ?_, ppbWrite_aircr_of_no_key, fun hreq hfuture => ?_⟩
  · rw [ppbWrite_aircr_of_key hkey hclear, hreq, State.requestReset, Bool.or_true]
  · have hreset : s.nextEnv.env.reset = true := by rw [nextEnv_of_future_nil hfuture]; exact hreq
    exact ⟨_, step_of_reset hreset, rfl, rfl, by rw [State.holdReset_mem, nextEnv_eq]⟩

end Sys2Proof.Machine
end

section
/-! PROOF. Every step keeps the memory canonical, and the machine's whole invariant (20_memory.md section 1,
60_exceptions.md sections 4 and 5). The idea: one relation between a state and a later one says of each part of the
invariant that it holds in the later state if it held in the earlier one. The relation can be chained, so that each
operation is looked at once. Only an exception entry or return changes the mode, and it settles the mode it leaves, so
that nothing need be known of the mode in the middle of it. -/

namespace Sys2Proof.Machine

variable {α β : Type} {s t u : State} {n : Nat} {addr v : Word}

/-! ### Sets of legal exceptions -/

/-- Only exceptions this chip has are in the set. -/
def Legal (b : BitVec 48) : Prop := b &&& ~~~legalExceptions = 0

theorem legal_iff {b : BitVec 48} : Legal b ↔ ∀ i < 48, b.getLsbD i = true → legalExceptions.getLsbD i = true := by
  constructor
  · intro h i hi hb
    have hbit := congrArg (BitVec.getLsbD · i) h
    simpa [hi, hb] using hbit
  · intro h
    refine BitVec.eq_of_getLsbD_eq fun i hi => ?_
    have := h i hi
    cases hb : b.getLsbD i <;> simp_all

theorem Legal.of_subset {b c : BitVec 48} (hc : Legal c) (h : ∀ i < 48, b.getLsbD i = true → c.getLsbD i = true) :
    Legal b := legal_iff.mpr fun i hi hb => legal_iff.mp hc i hi (h i hi hb)

theorem Legal.and {b : BitVec 48} (hb : Legal b) (c : BitVec 48) : Legal (b &&& c) :=
  hb.of_subset fun i _ h => by
    rw [BitVec.getLsbD_and, Bool.and_eq_true] at h
    exact h.1

theorem Legal.or {b c : BitVec 48} (hb : Legal b) (hc : Legal c) : Legal (b ||| c) :=
  legal_iff.mpr fun i hi h => by
    rw [BitVec.getLsbD_or, Bool.or_eq_true] at h
    exact h.elim (legal_iff.mp hb i hi) (legal_iff.mp hc i hi)

theorem legal_bitMask (h : legalExceptions.getLsbD n = true) : Legal (bitMask 48 n) :=
  legal_iff.mpr fun i hi hb => by
    rw [getLsbD_bitMask hi, decide_eq_true_eq] at hb
    rwa [← hb]

theorem Legal.setBit {b : BitVec 48} (hb : Legal b) (h : legalExceptions.getLsbD n = true) : Legal (setBit b n) :=
  hb.or (legal_bitMask h)

theorem Legal.clearBit {b : BitVec 48} (hb : Legal b) (n : Nat) : Legal (clearBit b n) := hb.and _

theorem Legal.putBit {b : BitVec 48} (hb : Legal b) (h : legalExceptions.getLsbD n = true) (p : Bool) :
    Legal (putBit b n p) := by
  cases p
  · exact hb.clearBit n
  · exact hb.setBit h

/-- Every interrupt is an exception of this chip. -/
theorem legal_ofIrqBits (w : BitVec 32) : Legal (ofIrqBits w) :=
  legal_iff.mpr fun i hi h => by
    by_cases hlt : i < 16
    · rw [getLsbD_ofIrqBits_of_lt w hlt] at h
      cases h
    · interval_cases i <;> rfl

/-! ### The relation -/

/-- What the invariant says of memory, the stack selection and the exceptions holds of t if it holds of s. -/
structure KeepsData (s t : State) : Prop where
  memory : s.memoryCanonical → t.memoryCanonical
  spsel : s.spselThreadOnly → t.spselThreadOnly
  exceptions : s.exceptionsLegal → t.exceptionsLegal

/-- Every part of the invariant but the alignment holds of t if it holds of s. -/
structure Keeps (s t : State) : Prop extends KeepsData s t where
  mode : (s.alive → s.modeAgrees) → t.alive → t.modeAgrees

theorem KeepsData.trans (h : KeepsData s t) (h' : KeepsData t u) : KeepsData s u :=
  ⟨h'.memory ∘ h.memory, h'.spsel ∘ h.spsel, h'.exceptions ∘ h.exceptions⟩

theorem Keeps.trans (h : Keeps s t) (h' : Keeps t u) : Keeps s u :=
  ⟨h.toKeepsData.trans h'.toKeepsData, h'.mode ∘ h.mode⟩

/-- The two states agree on the memory, the mode, the stack selection, the active exceptions and the run state. -/
structure SameMode (s t : State) : Prop where
  mem : t.mem = s.mem
  ipsr : t.ipsr = s.ipsr
  spsel : t.spsel = s.spsel
  active : t.nvic.active = s.nvic.active
  run : t.run = s.run

/-- Where the mode stays and only legal exceptions become pending. -/
theorem SameMode.keeps (h : SameMode s t) (hp : Legal s.nvic.pending → Legal t.nvic.pending) : Keeps s t where
  memory hm := by rwa [State.memoryCanonical, h.mem]
  spsel hm := by rwa [State.spselThreadOnly, h.ipsr, h.spsel]
  exceptions hm := ⟨hp hm.1, by rw [h.active]; exact hm.2⟩
  mode hm ht := by
    rw [State.alive, h.run] at ht
    rw [State.modeAgrees, h.ipsr, h.active]
    exact hm ht

/-- Where nothing that the invariant speaks of changes. -/
theorem SameMode.keeps_of_pending (h : SameMode s t) (hp : t.nvic.pending = s.nvic.pending) : Keeps s t :=
  h.keeps fun hs => by rwa [hp]

theorem Keeps.refl (s : State) : Keeps s s := ⟨⟨id, id, id⟩, id⟩

/-! ### Memory accesses -/

/-- An aligned access of a width that divides the address space ends within it. -/
theorem aligned_access_le (hal : addr.toNat % n = 0) (hn : n ∣ 2 ^ 32) : addr.toNat + n ≤ 2 ^ 32 := by
  obtain ⟨k, hk⟩ := Nat.dvd_of_mod_eq_zero hal
  obtain ⟨m, hm⟩ := hn
  have hlt : n * k < n * m := by rw [← hk, ← hm]; exact addr.isLt
  have hle : n * (k + 1) ≤ n * m := Nat.mul_le_mul_left n (Nat.lt_of_mul_lt_mul_left hlt)
  rwa [hk, hm, ← Nat.mul_succ]

theorem keeps_store (hal : addr.toNat % n = 0) (hn : n ∣ 2 ^ 32) (v : Word) : Keeps s (s.store n addr v) where
  memory hs := Memory.wf_store hs (aligned_access_le hal hn)
  spsel := id
  exceptions := id
  mode := id

theorem keeps_writeIcsr (s : State) (v : Word) : Keeps s (s.writeIcsr v) :=
  SameMode.keeps ⟨rfl, rfl, rfl, rfl, rfl⟩ fun hs => (hs.putBit (by decide) _).putBit (by decide) _

theorem keeps_pendIrqs (s : State) (irqs : BitVec 32) : Keeps s (s.pendIrqs irqs) :=
  SameMode.keeps ⟨rfl, rfl, rfl, rfl, rfl⟩ fun hs => hs.or (legal_ofIrqBits irqs)

theorem keeps_unpendIrqs (s : State) (v : Word) : Keeps s (s.unpendIrqs v) :=
  SameMode.keeps ⟨rfl, rfl, rfl, rfl, rfl⟩ fun hs => hs.and _

theorem keeps_irqPrio (s : State) (levels : Vector (BitVec 2) 32) :
    Keeps s { s with nvic := { s.nvic with irqPrio := levels } } :=
  SameMode.keeps_of_pending ⟨rfl, rfl, rfl, rfl, rfl⟩ rfl

theorem ppbRead_keeps (s : State) (reg : PpbReg) : Keeps s (s.ppbRead reg).2 := by
  cases reg <;> exact SameMode.keeps_of_pending ⟨rfl, rfl, rfl, rfl, rfl⟩ rfl

theorem ppbWrite_keeps {reg : PpbReg} (h : s.ppbWrite v reg = .ok () t) : Keeps s t := by
  cases reg with
  | icsr =>
    simp only [State.ppbWrite] at h
    split at h <;> cases h
    exact keeps_writeIcsr s v
  | aircr =>
    simp only [State.ppbWrite] at h
    split at h
    · split at h <;> cases h
      exact SameMode.keeps_of_pending ⟨rfl, rfl, rfl, rfl, rfl⟩ rfl
    · cases h
      exact Keeps.refl s
  | ispr =>
    cases h
    exact keeps_pendIrqs s v
  | icpr =>
    cases h
    exact keeps_unpendIrqs s v
  | ipr =>
    cases h
    exact keeps_irqPrio s _
  | systCsr | systRvr | systCvr | systCalib | iser | icer | cpuid | scr | ccr | shpr2 | shpr3 =>
    cases h
    exact SameMode.keeps_of_pending ⟨rfl, rfl, rfl, rfl, rfl⟩ rfl

theorem keeps_deviceRead (s : State) : Keeps s s.deviceRead := by
  unfold State.deviceRead
  split <;> exact SameMode.keeps_of_pending ⟨rfl, rfl, rfl, rfl, rfl⟩ rfl

theorem keeps_deviceWritten (s : State) : Keeps s s.deviceWritten := by
  unfold State.deviceWritten
  split <;> exact SameMode.keeps_of_pending ⟨rfl, rfl, rfl, rfl, rfl⟩ rfl

/-- Whatever state the access answers, done or faulted, keeps what holds of s. -/
def Access.AllKeep (s : State) : Access α → Prop
  | .ok _ t => Keeps s t
  | .abort _ t => Keeps s t
  | .refused _ => True

theorem Access.AllKeep.bind {m : Access α} {k : α → State → Access β} (hm : m.AllKeep s)
    (hk : ∀ a t, (k a t).AllKeep t) : (m.bind k).AllKeep s := by
  cases m with
  | ok a t =>
    have h := hk a t
    rw [Access.ok_bind]
    cases hr : k a t with
    | ok b u => rw [hr] at h; exact Keeps.trans hm h
    | abort c u => rw [hr] at h; exact Keeps.trans hm h
    | refused r => trivial
  | abort c t => exact hm
  | refused r => trivial

theorem Access.AllKeep.withCause {m : Access α} (hm : m.AllKeep s) (c : FaultCause) : (m.withCause c).AllKeep s := by
  cases m <;> exact hm

theorem memRead_allKeep (n : Nat) (addr : Word) (s : State) : (memRead n addr s).AllKeep s := by
  cases h : memRead n addr s with
  | ok v t =>
    obtain ⟨-, -, reg, -, -, rfl⟩ | ⟨-, -, -, rfl⟩ | ⟨-, -, -, rfl⟩ := (memRead_ok h).2
    · exact ppbRead_keeps s reg
    · exact Keeps.refl _
    · exact keeps_deviceRead s
  | abort c t =>
    obtain ⟨rfl, -⟩ := memRead_abort h
    exact Keeps.refl t
  | refused r => trivial

theorem memWrite_allKeep (hn : n ∣ 2 ^ 32) (addr v : Word) (s : State) : (memWrite n addr v s).AllKeep s := by
  cases h : memWrite n addr v s with
  | ok _ t =>
    obtain ⟨hal, ⟨-, -, reg, -, hw⟩ | ⟨-, -, rfl⟩ | ⟨-, -, rfl⟩ | ⟨-, -, rfl⟩⟩ := memWrite_ok h
    · exact ppbWrite_keeps hw
    · exact keeps_store hal hn v
    · exact Keeps.refl _
    · exact keeps_deviceWritten s
  | abort c t =>
    obtain ⟨rfl, -⟩ := memWrite_abort h
    exact Keeps.refl t
  | refused r => trivial

theorem loadWords_allKeep (n : Nat) (addr : Word) (s : State) : (loadWords n addr s).AllKeep s := by
  induction n generalizing addr s with
  | zero => exact Keeps.refl s
  | succ n ih =>
    exact (memRead_allKeep 4 addr s).bind fun v s1 => (ih (addr + 4) s1).bind fun vs s2 => Keeps.refl s2

theorem storeWords_allKeep (ws : List Word) (addr : Word) (s : State) : (storeWords ws addr s).AllKeep s := by
  induction ws generalizing addr s with
  | nil => exact Keeps.refl s
  | cons v vs ih => exact (memWrite_allKeep (by decide) addr v s).bind fun _ s1 => ih (addr + 4) s1

theorem Access.AllKeep.of_ok {m : Access α} {a : α} (hm : m.AllKeep s) (h : m = .ok a t) : Keeps s t := by
  rw [h] at hm
  exact hm

theorem fetchHalf_allKeep (addr : Word) (s : State) : (fetchHalf addr s).AllKeep s := by
  unfold fetchHalf
  split
  · exact Keeps.refl s
  · exact ((memRead_allKeep 2 addr s).withCause _).bind fun v s1 => Keeps.refl s1

theorem fetch_decoded_allKeep (d : Except DecodeError Instr) (s : State) : (fetch.decoded d s).AllKeep s := by
  cases d <;> exact Keeps.refl s

theorem fetch_allKeep (s : State) : (fetch s).AllKeep s := by
  unfold fetch
  split
  · refine (fetchHalf_allKeep s.pc s).bind fun hw1 s1 => ?_
    split
    · exact (fetchHalf_allKeep (s.pc + 2) s1).bind fun hw2 s2 => fetch_decoded_allKeep _ s2
    · exact fetch_decoded_allKeep _ s1
  · exact Keeps.refl s

/-! ### The other agents -/

theorem keeps_rememberLines (s : State) (lines : BitVec 32) : Keeps s (s.rememberLines lines) :=
  SameMode.keeps_of_pending ⟨rfl, rfl, rfl, rfl, rfl⟩ rfl

theorem keeps_sampleLines (s : State) (lines : BitVec 32) : Keeps s (s.sampleLines lines) :=
  (keeps_pendIrqs s _).trans (keeps_rememberLines _ lines)

theorem keeps_pendSysTick (s : State) : Keeps s s.pendSysTick :=
  SameMode.keeps ⟨rfl, rfl, rfl, rfl, rfl⟩ fun hs => hs.setBit (by decide)

theorem keeps_count (s : State) : Keeps s s.count := by
  have hcounted (c : SysTick) : Keeps s { s with sysTick := c } :=
    SameMode.keeps_of_pending ⟨rfl, rfl, rfl, rfl, rfl⟩ rfl
  unfold State.count
  split
  · exact hcounted _
  · split
    · dsimp only
      split
      · exact (hcounted _).trans (keeps_pendSysTick _)
      · exact hcounted _
    · exact hcounted _

theorem keeps_tick (s : State) : Keeps s s.tick := by
  unfold State.tick
  split
  · exact keeps_count s
  · exact Keeps.refl s

theorem keeps_ticks (s : State) (n : Nat) : Keeps s (s.ticks n) := by
  induction n generalizing s with
  | zero => exact Keeps.refl s
  | succ n ih => exact (keeps_tick s).trans (ih s.tick)

theorem keeps_agentSteps (s : State) (as : List AgentStep) : Keeps s (s.agentSteps as) := by
  induction as generalizing s with
  | nil => exact Keeps.refl s
  | cons a as ih =>
    refine Keeps.trans ?_ (ih (s.agentStep a))
    cases a with
    | ticks n => exact keeps_ticks s n
    | sampled lines => exact keeps_sampleLines s lines
    | externalEvent => exact SameMode.keeps_of_pending ⟨rfl, rfl, rfl, rfl, rfl⟩ rfl

theorem keeps_takeSample (s : State) (sm : Sample) : Keeps s (s.takeSample sm) :=
  (keeps_agentSteps s sm.steps).trans (keeps_sampleLines _ sm.lines)

theorem keeps_interrupted (s : State) : Keeps s s.interrupted := by
  unfold State.interrupted
  split
  · exact keeps_takeSample s _
  · exact Keeps.refl s

/-! ### Taking an exception and returning from one -/

/-- An exception entry or return: whatever the mode was before, the one it leaves agrees with the active exceptions. -/
structure Settles (s t : State) : Prop extends KeepsData s t where
  mode : t.alive → t.modeAgrees

theorem Settles.keeps (h : Settles s t) : Keeps s t := ⟨h.toKeepsData, fun _ => h.mode⟩

theorem KeepsData.settles (h : KeepsData s t) (h' : Settles t u) : Settles s u :=
  ⟨h.trans h'.toKeepsData, h'.mode⟩

theorem KeepsData.of_eq (hmem : t.mem = s.mem) (hipsr : t.ipsr = s.ipsr) (hspsel : t.spsel = s.spsel)
    (hnvic : t.nvic = s.nvic) : KeepsData s t :=
  ⟨fun h => by rwa [State.memoryCanonical, hmem], fun h => by rwa [State.spselThreadOnly, hipsr, hspsel],
    fun h => by rwa [State.exceptionsLegal, hnvic]⟩

/-- A processor that locks up or is held in reset need not agree on its mode. -/
theorem KeepsData.settles_of_not_alive (h : KeepsData s t) (ht : ¬ t.alive) : Settles s t :=
  ⟨h, fun hal => absurd hal ht⟩

theorem not_alive_lockUp (s : State) : ¬ s.lockUp.alive := fun h => h.1 rfl

theorem not_alive_holdReset (s : State) : ¬ s.holdReset.alive := fun h => h.2 rfl

/-- An exception that may be taken is one of the chip's, where only those are pending. -/
theorem preempting_pending (h : s.preempting = some n) :
    n ∈ exceptionNumbers ∧ (Legal s.nvic.pending → legalExceptions.getLsbD n = true) := by
  obtain ⟨hcand, -⟩ := State.preempting_eq_some_iff.mp h
  obtain ⟨hmem, hpend, -⟩ := Nvic.mem_waiting.mp (Nvic.candidate_eq_some_iff.mp hcand).1
  exact ⟨hmem, fun hl => legal_iff.mp hl n (lt_of_mem_exceptionNumbers hmem) hpend⟩

/-- An exception's number is not 0 and fits IPSR. -/
theorem toNat_ofNat_of_mem (h : n ∈ exceptionNumbers) :
    (BitVec.ofNat 6 n).toNat = n ∧ BitVec.ofNat 6 n ≠ 0 := by
  have hall : ∀ m ∈ exceptionNumbers, (BitVec.ofNat 6 m).toNat = m ∧ BitVec.ofNat 6 m ≠ 0 := by decide
  exact hall n h

/-- An entry to the handler of exception n: as an entry, and it makes no other exception active than n and HardFault. -/
structure Enters (n : Nat) (s t : State) : Prop where
  memory : s.memoryCanonical → t.memoryCanonical
  spsel : t.spselThreadOnly
  exceptions : legalExceptions.getLsbD n = true → s.exceptionsLegal → t.exceptionsLegal
  mode : t.alive → t.modeAgrees

theorem Enters.settles (h : Enters n s t) (hl : Legal s.nvic.pending → legalExceptions.getLsbD n = true) :
    Settles s t :=
  ⟨⟨h.memory, fun _ => h.spsel, fun hs => h.exceptions (hl hs.1) hs⟩, h.mode⟩

theorem KeepsData.enters (h : KeepsData s t) (h' : Enters n t u) : Enters n s u :=
  ⟨h'.memory ∘ h.memory, h'.spsel, fun hl => h'.exceptions hl ∘ h.exceptions, h'.mode⟩

/-- What comes after exception n's mode has been entered. -/
theorem Settles.enters_of_enterMode {link : Word} (h : Settles (s.enterMode n link) t) : Enters n s t :=
  ⟨h.memory, h.spsel (fun h => by cases h), fun hl hs => h.exceptions ⟨Legal.clearBit hs.1 n, Legal.setBit hs.2 hl⟩,
    h.mode⟩

/-- What comes after HardFault's mode has been entered in place of exception n's. -/
theorem Settles.enters_of_enterDerived {link : Word} (h : Settles ((s.enterMode n link).enterDerived n) t) :
    Enters n s t :=
  ⟨h.memory, h.spsel (fun h => by cases h),
    fun hl hs => h.exceptions
      ⟨(Legal.clearBit hs.1 n).setBit hl, ((Legal.setBit hs.2 hl).clearBit n).setBit (by decide)⟩, h.mode⟩

theorem getLsbD_setBit_self {b : BitVec 48} (hn : n ∈ exceptionNumbers) : (setBit b n).getLsbD n = true := by
  rw [getLsbD_setBit b (lt_of_mem_exceptionNumbers hn), decide_eq_true rfl, Bool.or_true]

/-- A handler that starts at its vector, in the mode that names its exception. -/
theorem settles_toVector {a : Word} (hn : n ∈ exceptionNumbers) (hipsr : s.ipsr = BitVec.ofNat 6 n)
    (hact : s.nvic.active.getLsbD n = true) (h : memRead 4 a s = .ok v t) : Settles s (t.toVector v).clobber := by
  obtain ⟨hnat, hne⟩ := toNat_ofNat_of_mem hn
  have hcore := (memRead_sameCore h).1
  have hstart : KeepsData t (t.toVector v).clobber := .of_eq (by simp) (by simp) (by simp) (by simp)
  refine ⟨((memRead_allKeep 4 a s).of_ok h).toKeepsData.trans hstart, fun _ => .inr ?_⟩
  rw [State.clobber_ipsr, State.toVector_ipsr, State.clobber_nvic, State.toVector_nvic, hcore.ipsr, hcore.active,
    hipsr, hnat]
  exact ⟨hne, hact⟩

theorem settles_lockUp (s : State) : Settles s s.lockUp :=
  have hlocked : KeepsData s s.lockUp := .of_eq rfl rfl rfl rfl
  hlocked.settles_of_not_alive (not_alive_lockUp s)

theorem startDerived_settles (h : startDerived n s = .next t) : Settles (s.enterDerived n) t := by
  obtain ⟨w, s1, hm, rfl⟩ | ⟨c, s1, hm, rfl⟩ := startDerived_next h
  · exact settles_toVector (n := 3) (by decide) rfl (getLsbD_setBit_self (by decide)) hm
  · obtain ⟨rfl, -⟩ := memRead_abort hm
    exact settles_lockUp _

theorem startHandler_enters {link : Word} (hn : n ∈ exceptionNumbers) (h : startHandler n link s = .next t) :
    Enters n s t := by
  obtain ⟨w, s1, hm, rfl⟩ | ⟨c, s1, hm, ⟨-, rfl⟩ | ⟨-, h⟩⟩ := startHandler_next h
  · exact (settles_toVector hn rfl (getLsbD_setBit_self hn) hm).enters_of_enterMode
  · obtain ⟨rfl, -⟩ := memRead_abort hm
    exact (settles_lockUp _).enters_of_enterMode
  · obtain ⟨rfl, -⟩ := memRead_abort hm
    exact (startDerived_settles h).enters_of_enterDerived

theorem takeException_settles {ra : Word} (hn : n ∈ exceptionNumbers)
    (hl : Legal s.nvic.pending → legalExceptions.getLsbD n = true) (h : takeException n ra s = .next t) :
    Settles s t := by
  obtain h | ⟨k, -, h⟩ := takeException_next h
  · obtain ⟨s1, hst, h⟩ := enterException_next h
    have hstored := ((storeWords_allKeep _ _ _).of_ok hst).toKeepsData
    have hmoved : KeepsData s1 (s1.setSp s.framePointer) := .of_eq rfl rfl rfl rfl
    exact ((hstored.trans hmoved).enters (startHandler_enters hn h)).settles hl
  · obtain ⟨s1, hst, rfl⟩ := cutEntry_next h
    have hstored := ((storeWords_allKeep _ _ _).of_ok hst).toKeepsData
    have hheld : KeepsData s1 s1.holdReset := .of_eq rfl rfl rfl rfl
    exact (hstored.trans hheld).settles_of_not_alive (not_alive_holdReset s1)

theorem raiseHardFault_settles (c : FaultCause) (h : raiseHardFault c s = .next t) : Settles s t := by
  obtain ⟨-, rfl⟩ | ⟨-, h⟩ := raiseHardFault_next h
  · exact settles_lockUp s
  · have hpend : KeepsData s (s.pend excHardFault) := ⟨id, id, fun hs => ⟨Legal.setBit hs.1 (by decide), hs.2⟩⟩
    exact hpend.settles (takeException_settles (by decide) (fun _ => by decide) h)

theorem preempting_settles {ra : Word} (hp : s.preempting = some n) (h : takeException n ra s = .next t) :
    Settles s t :=
  have ⟨hn, hl⟩ := preempting_pending hp
  takeException_settles hn hl h

/-- A frame that is restored: the mode it names is Thread mode, in which nothing may be active any more, or that of an
active exception. -/
theorem unstackFrame_settles {th ps : Bool} {ws : List Word} {psr : Word} (hthread : th = true → s.nvic.active = 0)
    (h : unstackFrame th ps ws psr s = .next t) : Settles s t := by
  obtain ⟨-, rfl, hact, rfl⟩ := unstackFrame_next h
  refine ⟨⟨fun hm => ?_, fun _ hsp => ?_, fun hs => ?_⟩, fun _ => ?_⟩
  · rwa [State.memoryCanonical, State.restore_mem]
  · rw [State.restore_spsel, Bool.and_eq_true] at hsp
    exact beq_iff_eq.mp hsp.1
  · rwa [State.exceptionsLegal, State.restore_nvic]
  · by_cases hzero : psr.setWidth 6 = 0#6
    · exact .inl ⟨hzero, hthread (beq_iff_eq.mpr hzero)⟩
    · exact .inr ⟨hzero, ((isActive_iff _ _).mp (hact (beq_eq_false_iff_ne.mpr hzero))).2⟩

theorem unstack_settles (hthread : addr.getLsbD 3 = true → s.nvic.active = 0) (h : unstack addr s = .next t) :
    Settles s t := by
  obtain ⟨ws, s1, hl, h⟩ := unstack_next h
  have hcore1 := (loadWords_sameCore hl).2.1
  refine ((loadWords_allKeep _ _ _).of_ok hl).toKeepsData.settles ?_
  obtain ⟨psr, s2, hr, h⟩ | ⟨c, s2, hr, -, rfl⟩ := h
  · refine ((memRead_allKeep _ _ _).of_ok hr).toKeepsData.settles (unstackFrame_settles (fun hth => ?_) h)
    rw [(memRead_sameCore hr).1.active, hcore1.active]
    exact hthread hth
  · obtain ⟨rfl, -⟩ := memRead_abort hr
    exact settles_lockUp _

theorem active_deactivateCurrent (h : s.othersActive = false) : s.deactivateCurrent.nvic.active = 0 := by
  simpa [State.othersActive] using h

theorem exceptionReturn_settles (h : exceptionReturn addr s = .next t) : Settles s t := by
  obtain ⟨hagrees, h⟩ := exceptionReturn_next h
  have hended : KeepsData s s.deactivateCurrent := ⟨id, id, fun hs => ⟨hs.1, Legal.clearBit hs.2 _⟩⟩
  refine hended.settles ?_
  obtain ⟨m, hm, h⟩ | ⟨-, h⟩ := returnSequence_next h
  · obtain ⟨hn, hl⟩ := preempting_pending hm
    exact (startHandler_enters hn h).settles hl
  · refine unstack_settles (fun hth => ?_) h
    obtain ⟨rfl, -⟩ | ⟨-, hothers⟩ := hagrees
    · cases hth
    · exact active_deactivateCurrent hothers

theorem bxWritePc_keeps (h : bxWritePc addr s = .next t) : Keeps s t := by
  obtain ⟨-, -, h⟩ | ⟨-, rfl⟩ := bxWritePc_next h
  · exact (exceptionReturn_settles h).keeps
  · exact SameMode.keeps_of_pending ⟨rfl, rfl, rfl, rfl, rfl⟩ rfl

/-! ### Instructions -/

/-- What goes on from an access starts from a state that keeps what holds of s, and so does the fault it takes. -/
theorem finish_keeps {m : Access α} {k : α → State → Result} (hm : m.AllKeep s)
    (hk : ∀ a u, k a u = .next t → Keeps u t) (h : m.finish k = .next t) : Keeps s t := by
  obtain ⟨a, s1, rfl, h⟩ | ⟨c, s1, rfl, h⟩ := finish_next h
  · exact Keeps.trans hm (hk a s1 h)
  · exact Keeps.trans hm (raiseHardFault_settles c h).keeps

/-- Where the answer is a state with nothing but registers, flags, the PC or the event register changed. -/
theorem keeps_of_next (h : (.next u : Result) = .next t) (hu : SameMode s u) (hp : u.nvic.pending = s.nvic.pending) :
    Keeps s t := by
  cases h
  exact hu.keeps_of_pending hp

theorem loadLow_keeps {ext : Word → Word} {rt : LowReg} (h : loadLow n ext rt addr s = .next t) : Keeps s t := by
  refine finish_keeps (memRead_allKeep n addr s) (fun _ _ h => ?_) h
  exact keeps_of_next h ⟨rfl, rfl, rfl, rfl, rfl⟩ rfl

theorem storeLow_keeps {rt : LowReg} (hn : n ∣ 2 ^ 32) (h : storeLow n rt addr s = .next t) : Keeps s t := by
  refine finish_keeps (memWrite_allKeep hn addr _ s) (fun _ _ h => ?_) h
  exact keeps_of_next h ⟨rfl, rfl, rfl, rfl, rfl⟩ rfl

theorem keeps_holdReset (s : State) : Keeps s s.holdReset :=
  have hheld : KeepsData s s.holdReset := .of_eq rfl rfl rfl rfl
  (hheld.settles_of_not_alive (not_alive_holdReset s)).keeps

theorem transfer_keeps {accesses : Nat → State → Access α} {done : α → State → Result}
    (hacc : ∀ k u, (accesses k u).AllKeep u) (hdone : ∀ a u, done a u = .next t → Keeps u t)
    (h : transfer n accesses done s = .next t) : Keeps s t := by
  obtain ⟨-, h⟩ | ⟨k, -, h⟩ | ⟨k, -, h⟩ := transfer_next h
  · exact (keeps_interrupted s).trans (finish_keeps (hacc n _) hdone h)
  · refine (keeps_interrupted s).trans (finish_keeps (hacc k _) (fun a u h => ?_) h)
    cases h
    exact Keeps.refl _
  · refine finish_keeps (hacc k s) (fun a u h => ?_) h
    cases h
    exact keeps_holdReset _

theorem loadTransfer_keeps {done : List Word → State → Result} (hdone : ∀ vs u, done vs u = .next t → Keeps u t)
    (h : loadTransfer n addr done s = .next t) : Keeps s t :=
  transfer_keeps (fun k u => loadWords_allKeep k addr u) hdone h

theorem storeTransfer_keeps {words : List Word} {done : State → Result} (hdone : ∀ u, done u = .next t → Keeps u t)
    (h : storeTransfer words addr done s = .next t) : Keeps s t :=
  transfer_keeps (fun k u => storeWords_allKeep (words.take k) addr u) (fun _ => hdone) h

theorem sameMode_setListed (s : State) (ns : List LowReg) (vs : List Word) :
    SameMode s (s.setListed ns vs) ∧ (s.setListed ns vs).nvic.pending = s.nvic.pending := by
  rw [setListed_eq]
  exact ⟨⟨rfl, rfl, rfl, rfl, rfl⟩, rfl⟩

theorem keeps_setListed (s : State) (ns : List LowReg) (vs : List Word) : Keeps s (s.setListed ns vs) :=
  have ⟨hmode, hpend⟩ := sameMode_setListed s ns vs
  hmode.keeps_of_pending hpend

theorem execLdm_keeps {rn : LowReg} {list : RegList} (h : execLdm rn list s = .next t) : Keeps s t := by
  refine loadTransfer_keeps (fun vs u h => (keeps_setListed u (listed list) vs).trans ?_) (next_of_guard h)
  dsimp only at h
  split at h <;> exact keeps_of_next h ⟨rfl, rfl, rfl, rfl, rfl⟩ rfl

theorem execStm_keeps {rn : LowReg} {list : RegList} (h : execStm rn list s = .next t) : Keeps s t := by
  refine storeTransfer_keeps (fun _ h => ?_) (next_of_guard (next_of_guard h))
  exact keeps_of_next h ⟨rfl, rfl, rfl, rfl, rfl⟩ rfl

theorem execPush_keeps {m : Bool} {list : RegList} (h : execPush m list s = .next t) : Keeps s t := by
  refine storeTransfer_keeps (fun _ h => ?_) (next_of_guard h)
  exact keeps_of_next h ⟨rfl, rfl, rfl, rfl, rfl⟩ rfl

theorem execPop_keeps {p : Bool} {list : RegList} (h : execPop p list s = .next t) : Keeps s t := by
  refine loadTransfer_keeps (fun vs u h => (keeps_setListed u (listed list) vs).trans ?_) (next_of_guard h)
  have hmoved (v : Word) (w : State) : Keeps w (w.setSp v) := SameMode.keeps_of_pending ⟨rfl, rfl, rfl, rfl, rfl⟩ rfl
  refine (hmoved (s.sp + byteCount (popCount p list)) _).trans ?_
  dsimp only at h
  split at h
  · exact bxWritePc_keeps h
  · exact keeps_of_next h ⟨rfl, rfl, rfl, rfl, rfl⟩ rfl

/-- PSP is selected in Thread mode only (10_state.md R32). -/
theorem keeps_setControl (s : State) (v : Word) : Keeps s (s.setControl v) := by
  refine ⟨⟨id, fun hs hsp => ?_, id⟩, id⟩
  by_cases h : s.ipsr = 0
  · exact h
  · refine hs ?_
    have hhandler : s.threadMode = false := beq_eq_false_iff_ne.mpr h
    rwa [State.setControl_spsel, hhandler] at hsp

theorem keeps_specWrite (s : State) (v : Word) (reg : SpecReg) : Keeps s (s.specWrite v reg) := by
  cases reg with
  | control => exact keeps_setControl s v
  | ipsr | epsr | iepsr => exact Keeps.refl s
  | apsr | iapsr | eapsr | psr | msp | psp | primask => exact SameMode.keeps_of_pending ⟨rfl, rfl, rfl, rfl, rfl⟩ rfl

theorem execMsr_keeps {rn : Reg} {sysm : BitVec 8} {sb : BitVec 6} (h : execMsr rn sysm sb s = .next t) :
    Keeps s t := by
  have h := next_of_guard (next_of_guard h)
  split at h
  · cases h
  · exact (keeps_specWrite s _ _).trans (keeps_of_next h ⟨rfl, rfl, rfl, rfl, rfl⟩ rfl)

theorem execMrs_keeps {rd : Reg} {sysm : BitVec 8} {sb : BitVec 6} (h : execMrs rd sysm sb s = .next t) :
    Keeps s t := by
  have h := next_of_guard (next_of_guard h)
  split at h
  · cases h
  · exact keeps_of_next h ⟨rfl, rfl, rfl, rfl, rfl⟩ rfl

/-- A processor that runs may fall asleep. -/
theorem keeps_of_sleep (hs : s.alive) {w : WakeSet} {k : Nat} (h : (.next ((s.sleep w).advance k) : Result) = .next t) :
    Keeps s t := by
  cases h
  have hdata : KeepsData s ((s.sleep w).advance k) := .of_eq rfl rfl rfl rfl
  exact ⟨hdata, fun hm _ => hm hs⟩

theorem execWfe_keeps (hs : s.alive) (h : execWfe s = .next t) : Keeps s t := by
  unfold execWfe at h
  split at h
  · cases h
  · split at h
    · exact keeps_of_next h ⟨rfl, rfl, rfl, rfl, rfl⟩ rfl
    · split at h
      · exact keeps_of_next h ⟨rfl, rfl, rfl, rfl, rfl⟩ rfl
      · exact keeps_of_sleep hs h

theorem execWfi_keeps (hs : s.alive) (h : execWfi s = .next t) : Keeps s t := by
  unfold execWfi at h
  split at h
  · exact keeps_of_next h ⟨rfl, rfl, rfl, rfl, rfl⟩ rfl
  · exact keeps_of_sleep hs h

theorem execSvc_keeps (imm8 : BitVec 8) (h : execSvc imm8 s = .next t) : Keeps s t := by
  have hpend : Keeps s ((s.pend excSvCall).advance 2) :=
    SameMode.keeps ⟨rfl, rfl, rfl, rfl, rfl⟩ fun hs => hs.setBit (by decide)
  unfold execSvc at h
  split at h
  · exact (raiseHardFault_settles .svcPriority h).keeps
  · refine (hpend.trans (keeps_interrupted _)).trans ?_
    dsimp only at h
    split at h
    · rename_i hp
      exact (preempting_settles hp h).keeps
    · cases h
      exact Keeps.refl _

theorem execAddHigh_keeps {rdn rm : Reg} (h : execAddHigh rdn rm s = .next t) : Keeps s t := by
  have h := next_of_guard h
  split at h <;> exact keeps_of_next h ⟨rfl, rfl, rfl, rfl, rfl⟩ rfl

theorem execMovHigh_keeps {rd rm : Reg} (h : execMovHigh rd rm s = .next t) : Keeps s t := by
  unfold execMovHigh at h
  split at h <;> exact keeps_of_next h ⟨rfl, rfl, rfl, rfl, rfl⟩ rfl

theorem execBCond_keeps {cond : Cond} {imm8 : BitVec 8} (h : execBCond cond imm8 s = .next t) : Keeps s t := by
  unfold execBCond at h
  split at h <;> exact keeps_of_next h ⟨rfl, rfl, rfl, rfl, rfl⟩ rfl

/-- Every instruction that a running processor executes. -/
theorem exec_keeps {i : Instr} (hs : s.alive) (h : exec i s = .next t) : Keeps s t := by
  cases i with
  | lslsImm | lsrsImm | asrsImm | addsReg | subsReg | addsImm3 | subsImm3 | movsImm | cmpImm | addsImm8 | subsImm8
  | ands | eors | lslsReg | lsrsReg | asrsReg | adcs | sbcs | rorsReg | tst | rsbs | cmpReg | cmn | orrs | muls | bics
  | mvns | adr | addSpRd | addSpImm | subSpImm | sxth | sxtb | uxth | uxtb | rev | rev16 | revsh
  | nop | yieldHint | sev | reservedHint | b | bl => exact keeps_of_next h ⟨rfl, rfl, rfl, rfl, rfl⟩ rfl
  | cmpHigh | cpsie | cpsid | dsb | dmb | isb =>
    exact keeps_of_next (next_of_guard h) ⟨rfl, rfl, rfl, rfl, rfl⟩ rfl
  | addHigh => exact execAddHigh_keeps h
  | movHigh => exact execMovHigh_keeps h
  | bCond => exact execBCond_keeps h
  | bx => exact bxWritePc_keeps (next_of_guard (next_of_guard h))
  -- the third guard is that of blxWritePc
  | blx => exact keeps_of_next (next_of_guard (next_of_guard (next_of_guard h))) ⟨rfl, rfl, rfl, rfl, rfl⟩ rfl
  | ldrLit | ldrsbReg | ldrReg | ldrhReg | ldrbReg | ldrshReg | ldrImm | ldrbImm | ldrhImm | ldrSp =>
    exact loadLow_keeps h
  | strReg | strhReg | strbReg | strImm | strbImm | strhImm | strSp => exact storeLow_keeps (by decide) h
  | ldm => exact execLdm_keeps h
  | stm => exact execStm_keeps h
  | push => exact execPush_keeps h
  | pop => exact execPop_keeps h
  | mrs => exact execMrs_keeps h
  | msr => exact execMsr_keeps h
  | wfe => exact execWfe_keeps hs h
  | wfi => exact execWfi_keeps hs h
  | svc imm8 => exact execSvc_keeps imm8 h
  | udf | udfW => exact (raiseHardFault_settles .undefinedInstruction h).keeps
  | bkpt => exact (raiseHardFault_settles .bkptNoDebugger (next_of_guard h)).keeps

/-! ### The step -/

theorem keeps_wakeUp (hs : s.alive) : Keeps s s.wakeUp :=
  have hdata : KeepsData s s.wakeUp := .of_eq rfl rfl rfl rfl
  ⟨hdata, fun hm _ => hm hs⟩

theorem sleepStep_keeps {w : WakeSet} (hs : s.alive) (h : sleepStep w s = .next t) : Keeps s t := by
  have hclear : Keeps s s.clearEvent := SameMode.keeps_of_pending ⟨rfl, rfl, rfl, rfl, rfl⟩ rfl
  unfold sleepStep at h
  split at h
  · rename_i hp
    exact (preempting_settles hp h).keeps
  · split at h
    · split at h <;> cases h
      · exact keeps_wakeUp hs
      · exact Keeps.refl s
    · split at h
      · cases h
        exact hclear.trans (keeps_wakeUp hs)
      · split at h <;> cases h
        · exact keeps_wakeUp hs
        · exact Keeps.refl s

/-- An instruction runs from the state its fetch leaves, in which the processor still runs. -/
theorem runInstr_keeps (hs : s.alive) (h : runInstr s = .next t) : Keeps s t := by
  have hkeep := fetch_allKeep s
  have hcore := fetch_leavesCore s
  obtain ⟨i, s1, hf, h⟩ | ⟨c, s1, hf, h⟩ := finish_next h <;> rw [hf] at hkeep hcore
  · exact Keeps.trans hkeep (exec_keeps (by rw [State.alive, SameCore.run hcore]; exact hs) h)
  · exact Keeps.trans hkeep (raiseHardFault_settles c h).keeps

theorem act_keeps (h : act s = .next t) : Keeps s t := by
  unfold act at h
  split at h
  · rename_i hrun
    split at h
    · rename_i hp
      exact (preempting_settles hp h).keeps
    · exact runInstr_keeps (by simp [State.alive, hrun]) h
  · rename_i w hrun
    exact sleepStep_keeps (by simp [State.alive, hrun]) h
  · cases h
    exact Keeps.refl s
  · cases h
    exact Keeps.refl s

/-- Reset clears the exceptions and leaves Thread mode on the main stack (10_state.md R90). -/
theorem resetSequence_keeps (h : resetSequence s = .next t) : Keeps s t := by
  have hreset : KeepsData s s.resetCore := ⟨id, fun _ h => (by cases h), fun _ => ⟨BitVec.zero_and, BitVec.zero_and⟩⟩
  unfold resetSequence at h
  split at h
  · rename_i ws s1 hl
    cases h
    have hcore := (loadWords_sameCore hl).2.1
    have hboot : KeepsData s1 (s1.boot (ws.getD 0 0) (ws.getD 1 0)) := .of_eq rfl rfl rfl rfl
    refine ⟨(hreset.trans ((loadWords_allKeep _ _ _).of_ok hl).toKeepsData).trans hboot, fun _ _ => .inl ?_⟩
    rw [State.boot_ipsr, State.boot_nvic, hcore.ipsr, hcore.active]
    exact ⟨rfl, rfl⟩
  · cases h
  · cases h

theorem keeps_nextEnv (s : State) : Keeps s s.nextEnv := by
  rw [nextEnv_eq]
  exact SameMode.keeps_of_pending ⟨rfl, rfl, rfl, rfl, rfl⟩ rfl

theorem step_keeps (h : step s = .next t) : Keeps s t := by
  refine (keeps_nextEnv s).trans ?_
  unfold step at h
  dsimp only at h
  split at h
  · cases h
    exact keeps_holdReset _
  · split at h
    · exact resetSequence_keeps h
    · exact (keeps_takeSample _ _).trans (act_keeps h)

/-- Settles O57. -/
theorem stepKeepsMemoryCanonical : Obligations.StepKeepsMemoryCanonical :=
  fun _ _ hs h => (step_keeps h).memory hs

/-- Settles O59, from what every step keeps and from the alignment, which every step keeps too. -/
theorem stepKeepsTheInvariant : Obligations.StepKeepsTheInvariant := by
  intro s t hs h
  have hkept := step_keeps h
  obtain ⟨hstacks, hpc⟩ := step_aligned ⟨hs.stackPointers, hs.pc⟩ h
  exact ⟨hkept.memory hs.memory, hstacks, hpc, hkept.spsel hs.spsel, hkept.exceptions hs.exceptions,
    hkept.mode hs.mode⟩

end Sys2Proof.Machine
end

section
/-! PROOF. What the decoder reads is the encoding of what it answers (30_encoding.md sections 1 to 3). The idea: an
encoding is the sum of a base and its fields at their places, and the decoder has looked at every bit outside the
fields, so the sum gives the halfword back. One lemma for each table of the decoder. -/

namespace Sys2Proof.Machine

variable {w hw1 hw2 : Nat} {i : Instr}

/-! ### 16-bit instructions -/

/-- A field as a number. -/
theorem field_toNat (w lo len : Nat) : (field w lo len).toNat = w / 2 ^ lo % 2 ^ len := by
  rw [field, BitVec.toNat_ofNat]

/-- The term has an encoding, and it is these halfwords. -/
def EncodesTo (i : Instr) (ws : List Nat) : Prop := i.encodable = true ∧ encodeNat i = ws

theorem encodesTo_of_addSub (hlo : 0x1800 ≤ w) (hhi : w < 0x2000) (h : decodeAddSub w = some i) :
    EncodesTo i [w] := by
  delta decodeAddSub bitsAt at h
  split at h <;> cases h <;> refine ⟨rfl, ?_⟩ <;>
    simp only [encodeNat, encodeThree, field_toNat, Nat.reducePow, Nat.div_one, List.cons.injEq, and_true] at * <;> lia

theorem encodesTo_of_dataProcessing (hlo : 0x4000 ≤ w) (hhi : w < 0x4400) (h : decodeDataProcessing w = some i) :
    EncodesTo i [w] := by
  delta decodeDataProcessing bitsAt at h
  split at h <;> cases h <;> refine ⟨rfl, ?_⟩ <;>
    simp only [encodeNat, encodeDp, field_toNat, Nat.reducePow, Nat.div_one, List.cons.injEq, and_true] at * <;> lia

theorem highReg_toNat (w : Nat) : (highReg w).toNat = 8 * (w / 128 % 2) + w % 8 := by
  rw [highReg, BitVec.toNat_ofNat]
  simp only [bitsAt, Nat.reducePow, Nat.div_one]
  omega

theorem encodesTo_of_specialData (hlo : 0x4400 ≤ w) (hhi : w < 0x4800) (h : decodeSpecialData w = some i) :
    EncodesTo i [w] := by
  delta decodeSpecialData bitsAt at h
  split at h
  case h_4 =>
    split at h <;> cases h <;> refine ⟨rfl, ?_⟩ <;>
      simp only [encodeNat, field_toNat, Nat.reducePow, Nat.div_one, List.cons.injEq, and_true] at * <;> lia
  all_goals
    cases h
    refine ⟨rfl, ?_⟩
    simp only [encodeNat, encodeHigh, highReg_toNat, field_toNat, Nat.reducePow, List.cons.injEq, and_true] at *
    lia

theorem encodesTo_of_loadStoreReg (hlo : 0x5000 ≤ w) (hhi : w < 0x6000) (h : decodeLoadStoreReg w = some i) :
    EncodesTo i [w] := by
  delta decodeLoadStoreReg bitsAt at h
  split at h <;> cases h <;> refine ⟨rfl, ?_⟩ <;>
    simp only [encodeNat, encodeThree, field_toNat, Nat.reducePow, Nat.div_one, List.cons.injEq, and_true] at * <;> lia

/-- A hint other than the five allocated ones is one of the eleven reserved ones (30_encoding.md R162). -/
theorem encodesTo_of_hint (hlo : 0xBF00 ≤ w) (hhi : w < 0xC000) (h : decodeHint w = some i) : EncodesTo i [w] := by
  delta decodeHint bitsAt at h
  split at h
  case isFalse => cases h
  case isTrue =>
    split at h
    case h_6 =>
      cases h
      refine ⟨decide_eq_true ?_, ?_⟩ <;>
        simp only [encodeNat, field_toNat, Nat.reducePow, List.cons.injEq, and_true] at * <;> lia
    all_goals
      cases h
      refine ⟨rfl, ?_⟩
      simp only [encodeNat, List.cons.injEq, and_true] at *
      lia

theorem encodesTo_of_misc (hlo : 0xB000 ≤ w) (hhi : w < 0xC000) (h : decodeMisc w = some i) : EncodesTo i [w] := by
  delta decodeMisc bitsAt at h
  repeat' split at h
  all_goals first
    | exact encodesTo_of_hint (by lia) hhi h
    | cases h
  all_goals
    refine ⟨rfl, ?_⟩
    simp only [encodeNat, encodeTwo, bitVal, field_toNat, Nat.reducePow, Nat.div_one, Bool.false_eq_true, if_false,
      if_true, List.cons.injEq, and_true] at *
    lia

/-- A condition's number names it. -/
theorem condNum_of_condOf {n : Nat} {c : Cond} (h : condOf n = some c) : condNum c = n := by
  unfold condOf at h
  split at h <;> cases h <;> rfl

theorem encodesTo_of_condBranch (hlo : 0xD000 ≤ w) (hhi : w < 0xE000) (h : decodeCondBranch w = some i) :
    EncodesTo i [w] := by
  delta decodeCondBranch bitsAt at h
  split at h
  case h_3 =>
    obtain ⟨c, hc, rfl⟩ := Option.map_eq_some_iff.mp h
    refine ⟨rfl, ?_⟩
    simp only [encodeNat, condNum_of_condOf hc, field_toNat, Nat.reducePow, Nat.div_one, List.cons.injEq, and_true] at *
    lia
  all_goals
    cases h
    refine ⟨rfl, ?_⟩
    simp only [encodeNat, field_toNat, Nat.reducePow, Nat.div_one, List.cons.injEq, and_true] at *
    lia

/-- A halfword that decodes is the encoding of what it decodes to. -/
theorem encodesTo_of_decode16 (hlt : w < 65536) (h : decode16 w = some i) : EncodesTo i [w] := by
  delta decode16 bitsAt at h
  split at h
  case h_4 => exact encodesTo_of_addSub (by lia) (by lia) h
  case h_9 =>
    split at h
    · exact encodesTo_of_dataProcessing (by lia) (by lia) h
    · exact encodesTo_of_specialData (by lia) (by lia) h
  case h_11 | h_12 => exact encodesTo_of_loadStoreReg (by lia) (by lia) h
  case h_23 | h_24 => exact encodesTo_of_misc (by lia) (by lia) h
  case h_27 | h_28 => exact encodesTo_of_condBranch (by lia) (by lia) h
  case h_30 => cases h
  all_goals
    cases h
    refine ⟨rfl, ?_⟩
    simp only [encodeNat, encodeImm5, encodeImm8, field_toNat, Nat.reducePow, Nat.div_one, List.cons.injEq,
      and_true] at *
    lia

/-! ### 32-bit instructions -/

theorem bitsAt_lt (w lo len : Nat) : bitsAt w lo len < 2 ^ len := Nat.mod_lt _ (Nat.two_pow_pos len)

/-- The immediate of UDF.W holds its two parts at their places. -/
theorem udfW_parts {hi lo : Nat} (hhi : hi < 16) (hlo : lo < 4096) :
    bitsAt (BitVec.ofNat 16 (hi * 4096 + lo)).toNat 12 4 = hi ∧
      bitsAt (BitVec.ofNat 16 (hi * 4096 + lo)).toNat 0 12 = lo := by
  simp only [bitsAt, BitVec.toNat_ofNat, Nat.reducePow]
  omega

theorem encodesTo_of_barrier (h5 : hw1 / 16 = 0xF3B) (h2 : hw2 / 16384 = 2) (h12 : hw2 / 4096 % 2 = 0)
    (h : decodeBarrier hw1 hw2 = some i) : EncodesTo i [hw1, hw2] := by
  delta decodeBarrier barrierSb bitsAt at h
  split at h
  case h_4 => cases h
  all_goals
    cases h
    refine ⟨rfl, ?_⟩
    simp only [encodeNat, encodeBarrier, bitsAt, field_toNat, BitVec.toNat_ofNat, Nat.reducePow, Nat.div_one,
      List.cons.injEq, and_true] at *
    lia

theorem encodesTo_of_control (h11 : hw1 / 2048 = 30) (h2 : hw2 / 16384 = 2) (h12 : hw2 / 4096 % 2 = 0)
    (h : decodeControl hw1 hw2 = some i) : EncodesTo i [hw1, hw2] := by
  delta decodeControl bitsAt at h
  split at h
  case h_2 heq =>
    split at h
    case isTrue h4 =>
      simp only [Nat.reducePow] at heq h4
      exact encodesTo_of_barrier (by lia) h2 h12 h
    case isFalse => cases h
  case h_4 =>
    split at h
    case isTrue h4 =>
      cases h
      have hparts := udfW_parts (bitsAt_lt hw1 0 4) (bitsAt_lt hw2 0 12)
      refine ⟨rfl, ?_⟩
      simp only [bitsAt, Nat.reducePow, Nat.div_one] at *
      simp only [encodeNat, bitsAt, hparts, Nat.reducePow, Nat.div_one, List.cons.injEq, and_true]
      lia
    case isFalse => cases h
  case h_5 => cases h
  all_goals
    cases h
    refine ⟨rfl, ?_⟩
    simp only [encodeNat, bitsAt, field_toNat, BitVec.toNat_ofNat, Nat.reducePow, Nat.div_one, List.cons.injEq,
      and_true] at *
    lia

/-- The offset of BL holds its five parts at their places. -/
theorem bl_parts {s i1 i2 imm10 imm11 : Nat} (hs : s < 2) (h1 : i1 < 2) (h2 : i2 < 2) (h10 : imm10 < 1024)
    (h11 : imm11 < 2048) :
    let off : BitVec 24 := BitVec.ofNat 24 (s * 2 ^ 23 + i1 * 2 ^ 22 + i2 * 2 ^ 21 + imm10 * 2 ^ 11 + imm11)
    bitsAt off.toNat 23 1 = s ∧ bitsAt off.toNat 22 1 = i1 ∧ bitsAt off.toNat 21 1 = i2 ∧
      bitsAt off.toNat 11 10 = imm10 ∧ bitsAt off.toNat 0 11 = imm11 := by
  simp only [bitsAt, BitVec.toNat_ofNat, Nat.reducePow]
  omega

theorem notXor_lt (x y : Nat) : notXor x y < 2 := Nat.mod_lt _ (by decide)

/-- The two bits J1 and J2 are made from I1 and I2 in the same way as those from them. -/
theorem notXor_notXor {x : Nat} (hx : x < 2) (y : Nat) : notXor (notXor x y) y = x := by
  unfold notXor
  omega

theorem encodesTo_of_bl (h11 : hw1 / 2048 = 30) (h14 : hw2 / 16384 = 3) (h12 : hw2 / 4096 % 2 = 1) :
    EncodesTo (.bl (blOffset hw1 hw2)) [hw1, hw2] := by
  obtain ⟨hs, hi1, hi2, h10, himm⟩ := bl_parts (bitsAt_lt hw1 10 1) (notXor_lt (bitsAt hw2 13 1) (bitsAt hw1 10 1))
    (notXor_lt (bitsAt hw2 11 1) (bitsAt hw1 10 1)) (bitsAt_lt hw1 0 10) (bitsAt_lt hw2 0 11)
  refine ⟨rfl, ?_⟩
  simp only [encodeNat, encodeBl, blOffset, hs, hi1, hi2, h10, himm, notXor_notXor (bitsAt_lt hw2 _ 1)]
  simp only [bitsAt, Nat.reducePow, Nat.div_one, List.cons.injEq, and_true]
  omega

/-- Two halfwords that decode are the encoding of what they decode to. -/
theorem encodesTo_of_decode32 (h1 : hw1 < 65536) (h2 : hw2 < 65536) (h : decode32 hw1 hw2 = some i) :
    EncodesTo i [hw1, hw2] := by
  delta decode32 bitsAt at h
  split at h
  case isFalse => cases h
  case isTrue hop =>
    simp only [Nat.reducePow] at hop
    split at h
    case isTrue h14 =>
      simp only [Nat.reducePow] at h14
      split at h <;> cases h
      rename_i h12
      simp only [Nat.reducePow] at h12
      exact encodesTo_of_bl (by lia) (by lia) h12
    case isFalse h14 =>
      simp only [Nat.reducePow] at h14
      split at h
      case isTrue h12 =>
        simp only [Nat.reducePow] at h12
        exact encodesTo_of_control (by lia) (by lia) h12 h
      case isFalse => cases h

/-! ### Bytes -/

theorem halfBytes_halfOfBytes (lo hi : Byte) : halfBytes (halfOfBytes lo hi) = [lo, hi] := by
  have hnat : (halfOfBytes lo hi).toNat = lo.toNat + 256 * hi.toNat := toNat_append_byte hi lo
  have hlo : BitVec.ofNat 8 (halfOfBytes lo hi).toNat = lo :=
    BitVec.eq_of_toNat_eq (by rw [hnat, BitVec.toNat_ofNat]; omega)
  have hhi : BitVec.ofNat 8 ((halfOfBytes lo hi).toNat / 256) = hi :=
    BitVec.eq_of_toNat_eq (by rw [hnat, BitVec.toNat_ofNat]; omega)
  rw [halfBytes, hlo, hhi]

/-- The bytes of an instruction are those of its halfwords. -/
theorem encodeBytes_of_encodeNat {hws : List Half} (h : encodeNat i = hws.map BitVec.toNat) :
    encodeBytes i = hws.flatMap halfBytes := by
  have hid : (BitVec.ofNat 16 ∘ BitVec.toNat : Half → Half) = id :=
    funext fun x => BitVec.eq_of_toNat_eq (Nat.mod_eq_of_lt x.isLt)
  rw [encodeBytes, encode, h, List.map_map, hid, List.map_id]

theorem decodeHalves_eq_ok {hw1 hw2 : Half} :
    decodeHalves hw1 hw2 = .ok i ↔
      (if isWide hw1.toNat then decode32 hw1.toNat hw2.toNat else decode16 hw1.toNat) = some i := by
  rw [decodeHalves]
  split <;> simp_all

theorem map_eq_ok {α β ε : Type} {x : Except ε α} {f : α → β} {b : β} (h : x.map f = .ok b) :
    ∃ a, x = .ok a ∧ f a = b := by
  cases x with
  | error e => cases h
  | ok a =>
    cases h
    exact ⟨a, rfl, rfl⟩

theorem decode_narrow {b0 b1 : Byte} (h : isWide (halfOfBytes b0 b1).toNat = false) (rest : List Byte) :
    decode (b0 :: b1 :: rest) = (decodeHalves (halfOfBytes b0 b1) 0).map fun i => (i, rest) :=
  if_neg (ne_true_of_eq_false h)

theorem decode_wide {b0 b1 : Byte} (h : isWide (halfOfBytes b0 b1).toNat = true) (b2 b3 : Byte) (rest : List Byte) :
    decode (b0 :: b1 :: b2 :: b3 :: rest) =
      (decodeHalves (halfOfBytes b0 b1) (halfOfBytes b2 b3)).map fun i => (i, rest) := if_pos h

theorem decode_truncated {b0 b1 : Byte} (h : isWide (halfOfBytes b0 b1).toNat = true) {rest : List Byte}
    (hrest : rest.length < 2) : decode (b0 :: b1 :: rest) = .error .truncated := by
  match rest, hrest with
  | [], _ | [_], _ => exact if_pos h

/-- Settles O2: byte by byte what was read is the halfwords, and those are the encoding. -/
theorem encodeOfDecodedBytes : Obligations.EncodeOfDecodedBytes := by
  intro bytes rest i h
  match bytes, h with
  | [], h | [_], h => cases h
  | b0 :: b1 :: more, h =>
    cases hwidth : isWide (halfOfBytes b0 b1).toNat with
    | false =>
      rw [decode_narrow hwidth] at h
      obtain ⟨j, hj, heq⟩ := map_eq_ok h
      cases heq
      rw [decodeHalves_eq_ok, hwidth] at hj
      obtain ⟨henc, hnat⟩ := encodesTo_of_decode16 (BitVec.isLt _) hj
      rw [encodeBytes_of_encodeNat (hws := [_]) hnat]
      simp [halfBytes_halfOfBytes, henc]
    | true =>
      match more, h with
      | [], h | [_], h =>
        rw [decode_truncated hwidth (by simp)] at h
        cases h
      | b2 :: b3 :: more, h =>
        rw [decode_wide hwidth] at h
        obtain ⟨j, hj, heq⟩ := map_eq_ok h
        cases heq
        rw [decodeHalves_eq_ok, hwidth] at hj
        obtain ⟨henc, hnat⟩ := encodesTo_of_decode32 (BitVec.isLt _) (BitVec.isLt _) hj
        rw [encodeBytes_of_encodeNat (hws := [_, _]) hnat]
        simp [halfBytes_halfOfBytes, henc]

end Sys2Proof.Machine
end

section
/-! PROOF. Decoding the encoding of an instruction gives it back (30_encoding.md sections 1 to 3). The idea: one lemma
for each format, for every operation of it: the fields stand at their places, and the operation's number where the
decoder's tables look. -/

namespace Sys2Proof.Machine

open Sys2Proof.Claims

variable {i : Instr} {w op kind : Nat} {rd rm : LowReg} {imm8 : BitVec 8}

/-- The instruction's halfwords decode to it. -/
def DecodesBack (i : Instr) : Prop :=
  (∃ w, encodeNat i = [w] ∧ w < 0xE800 ∧ decode16 w = some i) ∨
  (∃ hw1 hw2, encodeNat i = [hw1, hw2] ∧ 0xF000 ≤ hw1 ∧ hw1 < 65536 ∧ hw2 < 65536 ∧ decode32 hw1 hw2 = some i)

/-! ### 16-bit formats -/

theorem DecodesBack.of_decode16 (henc : encodeNat i = [w]) (hlt : w < 0xE800) (h : decode16 w = some i) :
    DecodesBack i := .inl ⟨w, henc, hlt, h⟩

theorem DecodesBack.of_coded (henc : encodeNat i = [w]) (hlt : w < 0xE800) (h : coded w i) : DecodesBack i :=
  .of_decode16 henc hlt (by rwa [coded, decodeTableWord_narrow hlt] at h)

/-- An imm5 above two registers (30_encoding.md R152, R154). -/
theorem decodesBack_imm5 {mk : LowReg → LowReg → BitVec 5 → Instr} {imm5 : BitVec 5} (hop : op < 29)
    (henc : encodeNat (mk rd rm imm5) = [encodeImm5 (op * 2048) imm5 rm rd])
    (h : ∀ w, bitsAt w 11 5 = op → decode16 w = some (mk (field w 0 3) (field w 3 3) (field w 6 5))) :
    DecodesBack (mk rd rm imm5) :=
  .of_coded henc (by rw [encodeImm5]; omega) (coded_of_imm5 hop rfl h)

/-- A register above an imm8 (30_encoding.md R152 to R157). -/
theorem decodesBack_imm8 {mk : LowReg → BitVec 8 → Instr} (hop : op < 29)
    (henc : encodeNat (mk rd imm8) = [encodeImm8 (op * 2048) rd imm8])
    (h : ∀ w, bitsAt w 11 5 = op → decode16 w = some (mk (field w 8 3) (field w 0 8))) : DecodesBack (mk rd imm8) :=
  .of_coded henc (by rw [encodeImm8]; omega) (coded_of_imm8 hop h)

/-- Addition and subtraction with three operands (30_encoding.md R152). -/
theorem decodesBack_addSub {mk : LowReg → LowReg → BitVec 3 → Instr} {third : BitVec 3} (hop : op < 4)
    (henc : encodeNat (mk rd rm third) = [encodeThree (0x1800 + op * 512) third rm rd])
    (h : ∀ w, bitsAt w 9 2 = op → decodeAddSub w = some (mk (field w 0 3) (field w 3 3) (field w 6 3))) :
    DecodesBack (mk rd rm third) :=
  .of_coded henc (by rw [encodeThree]; omega) (coded_of_addSub hop h)

/-- Data processing on two registers (30_encoding.md R151). -/
theorem decodesBack_dataProcessing (henc : encodeNat i = [encodeDp op rm rd])
    (h : (dataProcessing rd rm)[op]? = some i) : DecodesBack i := by
  have hop : op < 16 := (List.getElem?_eq_some_iff.mp h).1
  exact .of_coded henc (by rw [encodeDp]; omega) (coded_of_dataProcessing h)

/-- Special data instructions on two registers, any of which may be high (30_encoding.md R153). -/
theorem decodesBack_high {mk : Reg → Reg → Instr} {rd rm : Reg} (hop : op < 3)
    (henc : encodeNat (mk rd rm) = [encodeHigh (0x4400 + op * 256) rd rm])
    (h : ∀ w, bitsAt w 8 2 = op → decodeSpecialData w = some (mk (highReg w) (field w 3 4))) :
    DecodesBack (mk rd rm) := by
  refine .of_decode16 henc (by rw [encodeHigh]; omega) ?_
  generalize hw : encodeHigh (0x4400 + op * 256) rd rm = w
  rw [encodeHigh] at hw
  have hnumber : w / 256 = 0x44 + op := by omega
  have hrange : 0x4400 ≤ w ∧ w < 0x4700 := by omega
  have hmajor : bitsAt w 11 5 = 8 := by rw [bitsAt]; omega
  have hspecial : bitsAt w 10 1 = 1 := by rw [bitsAt]; omega
  have hnum : bitsAt w 8 2 = op := by rw [bitsAt]; omega
  have hrd : highReg w = rd := highReg_eq (by rw [bitsAt]; omega) (by rw [bitsAt]; omega)
  have hrm : field w 3 4 = rm := field_eq (by omega)
  simp only [decode16, hmajor, hspecial, Nat.one_ne_zero, if_false, h w hnum, hrd, hrm]

/-- BX and BLX, told apart by bit 7 (30_encoding.md R153). -/
theorem decode16_exchange (link : Bool) (rm : Reg) (sb : BitVec 3) :
    decode16 (0x4700 + link.toNat * 128 + rm.toNat * 8 + sb.toNat) = some (if link then .blx rm sb else .bx rm sb) := by
  have hlink := Bool.toNat_le link
  generalize hw : 0x4700 + link.toNat * 128 + rm.toNat * 8 + sb.toNat = w
  have hmajor : bitsAt w 11 5 = 8 := by rw [bitsAt]; omega
  have hspecial : bitsAt w 10 1 = 1 := by rw [bitsAt]; omega
  have hexchange : bitsAt w 8 2 = 3 := by rw [bitsAt]; omega
  have hbit : bitsAt w 7 1 = link.toNat := by rw [bitsAt]; omega
  have hrm : field w 3 4 = rm := field_eq (by omega)
  have hsb : field w 0 3 = sb := field_eq (by omega)
  simp only [decode16, decodeSpecialData, hmajor, hspecial, hexchange, hbit, hrm, hsb]
  cases link <;> rfl

/-- Loads and stores with a register offset (30_encoding.md R154). -/
theorem decodesBack_loadStoreReg {mk : LowReg → LowReg → LowReg → Instr} {rt rn : LowReg} (hop : op < 8)
    (henc : encodeNat (mk rt rn rm) = [encodeThree (0x5000 + op * 512) rm rn rt])
    (h : ∀ w, bitsAt w 9 3 = op → decodeLoadStoreReg w = some (mk (field w 0 3) (field w 3 3) (field w 6 3))) :
    DecodesBack (mk rt rn rm) := by
  refine .of_decode16 henc (by rw [encodeThree]; omega) ?_
  generalize hw : encodeThree (0x5000 + op * 512) rm rn rt = w
  rw [encodeThree] at hw
  have hmajor : bitsAt w 11 5 = 10 ∨ bitsAt w 11 5 = 11 := by rw [bitsAt]; omega
  have hform : decode16 w = decodeLoadStoreReg w := by
    rcases hmajor with hmajor | hmajor <;> simp only [decode16, hmajor]
  have hrt : field w 0 3 = rt := field_eq (by omega)
  have hrn : field w 3 3 = rn := field_eq (by omega)
  have hrm : field w 6 3 = rm := field_eq (by omega)
  rw [hform, h w (by rw [bitsAt]; omega), hrt, hrn, hrm]

/-- The miscellaneous instructions fill two of the places of bits [15:11] (30_encoding.md R156). -/
theorem decode16_of_misc (hlo : 0xB000 ≤ w) (hhi : w < 0xC000) : decode16 w = decodeMisc w := by
  have hmajor : bitsAt w 11 5 = 22 ∨ bitsAt w 11 5 = 23 := by rw [bitsAt]; omega
  rcases hmajor with hmajor | hmajor <;> simp only [decode16, hmajor]

/-- Formats EXT and REV (30_encoding.md R156). -/
theorem decodesBack_misc {mk : LowReg → LowReg → Instr} (hkind : kind < 16) (hop : op < 4)
    (henc : encodeNat (mk rd rm) = [encodeTwo (0xB000 + kind * 256 + op * 64) rm rd])
    (h : ∀ w, bitsAt w 8 4 = kind → bitsAt w 6 2 = op → decodeMisc w = some (mk (field w 0 3) (field w 3 3))) :
    DecodesBack (mk rd rm) :=
  .of_coded henc (by rw [encodeTwo]; omega) (coded_of_misc hkind hop h)

/-- A byte below bits [11:8]: PUSH, POP and BKPT (30_encoding.md R156). -/
theorem decodesBack_miscByte {mk : BitVec 8 → Instr} (hkind : kind < 16)
    (henc : encodeNat (mk imm8) = [0xB000 + kind * 256 + imm8.toNat])
    (h : ∀ w, bitsAt w 8 4 = kind → decodeMisc w = some (mk (field w 0 8))) : DecodesBack (mk imm8) := by
  refine .of_decode16 henc (by omega) ?_
  have himm : field (0xB000 + kind * 256 + imm8.toNat) 0 8 = imm8 := field_eq (by omega)
  rw [decode16_of_misc (by omega) (by omega), h _ (by rw [bitsAt]; omega), himm]

/-- CPSIE and CPSID, told apart by bit 4 (30_encoding.md R156). -/
theorem decode16_cps (disable : Bool) (sb : BitVec 4) :
    decode16 (0xB660 + disable.toNat * 16 + sb.toNat) = some (if disable then .cpsid sb else .cpsie sb) := by
  have hdisable := Bool.toNat_le disable
  rw [decode16_of_misc (by omega) (by omega)]
  generalize hw : 0xB660 + disable.toNat * 16 + sb.toNat = w
  have hkind : bitsAt w 8 4 = 6 := by rw [bitsAt]; omega
  have hop : bitsAt w 4 4 = 6 + disable.toNat := by rw [bitsAt]; omega
  have hsb : field w 0 4 = sb := field_eq (by omega)
  simp only [decodeMisc, hkind, hop, hsb]
  cases disable <;> rfl

/-- The hints, by bits [7:4] (30_encoding.md R156). -/
theorem decode16_hint (opA : BitVec 4) :
    decode16 (0xBF00 + opA.toNat * 16) = decodeHint (0xBF00 + opA.toNat * 16) ∧
      bitsAt (0xBF00 + opA.toNat * 16) 0 4 = 0 ∧ bitsAt (0xBF00 + opA.toNat * 16) 4 4 = opA.toNat ∧
      field (0xBF00 + opA.toNat * 16) 4 4 = opA := by
  have hkind : bitsAt (0xBF00 + opA.toNat * 16) 8 4 = 15 := by rw [bitsAt]; omega
  refine ⟨?_, by rw [bitsAt]; omega, by rw [bitsAt]; omega, field_eq (by omega)⟩
  rw [decode16_of_misc (by omega) (by omega)]
  simp only [decodeMisc, hkind]

theorem decodesBack_reservedHint {opA : BitVec 4} (h : 5 ≤ opA.toNat) : DecodesBack (.reservedHint opA) := by
  obtain ⟨hhint, hlow, hop, hfield⟩ := decode16_hint opA
  refine .of_decode16 rfl (by omega) ?_
  rw [hhint, decodeHint, hlow, if_pos rfl, hfield]
  split
  case h_6 => rfl
  all_goals omega

/-- Conditional branches, UDF and SVC, by bits [11:8] (30_encoding.md R157). -/
theorem decode16_condBranch (hop : op < 16) (imm8 : BitVec 8) :
    decode16 (0xD000 + op * 256 + imm8.toNat) =
      if op = 14 then some (.udf imm8) else if op = 15 then some (.svc imm8)
      else (condOf op).map fun c => .bCond c imm8 := by
  generalize hw : 0xD000 + op * 256 + imm8.toNat = w
  have hmajor : bitsAt w 11 5 = 26 ∨ bitsAt w 11 5 = 27 := by rw [bitsAt]; omega
  have hform : decode16 w = decodeCondBranch w := by
    rcases hmajor with hmajor | hmajor <;> simp only [decode16, hmajor]
  have hnum : bitsAt w 8 4 = op := by rw [bitsAt]; omega
  have himm : field w 0 8 = imm8 := field_eq (by omega)
  rw [hform, decodeCondBranch, hnum, himm]
  split
  case h_1 | h_2 => rfl
  case h_3 h14 h15 => rw [if_neg h14, if_neg h15]

theorem condOf_condNum (c : Cond) : condOf (condNum c) = some c ∧ condNum c < 14 := by
  cases c <;> exact ⟨rfl, by decide⟩

theorem decodesBack_bCond (c : Cond) (imm8 : BitVec 8) : DecodesBack (.bCond c imm8) := by
  obtain ⟨hcond, hlt⟩ := condOf_condNum c
  refine .of_decode16 rfl (by omega) ?_
  rw [decode16_condBranch (by omega), if_neg (by omega), if_neg (by omega), hcond]
  rfl

theorem decodesBack_b (imm11 : BitVec 11) : DecodesBack (.b imm11) := by
  have hmajor : bitsAt (0xE000 + imm11.toNat) 11 5 = 28 := by rw [bitsAt]; omega
  have himm : field (0xE000 + imm11.toNat) 0 11 = imm11 := field_eq (by omega)
  exact .of_decode16 rfl (by omega) (by simp only [decode16, hmajor, himm])

/-! ### 32-bit formats -/

theorem DecodesBack.of_decode32 {hw1 hw2 : Nat} (henc : encodeNat i = [hw1, hw2]) (hlo : 0xF000 ≤ hw1)
    (h1 : hw1 < 65536) (h2 : hw2 < 65536) (h : decode32 hw1 hw2 = some i) : DecodesBack i :=
  .inr ⟨hw1, hw2, henc, hlo, h1, h2, h⟩

/-- Branch and miscellaneous control: the second halfword is 10x0 above twelve bits (30_encoding.md R158). -/
theorem decode32_control {hw1 b low : Nat} (hlo : 0xF000 ≤ hw1) (hhi : hw1 < 0xF800) (hb : b < 2) (hlow : low < 4096) :
    decode32 hw1 (0x8000 + b * 8192 + low) = decodeControl hw1 (0x8000 + b * 8192 + low) ∧
      bitsAt (0x8000 + b * 8192 + low) 13 1 = b := by
  have h11 : bitsAt hw1 11 5 = 30 := by rw [bitsAt]; omega
  have h15 : bitsAt (0x8000 + b * 8192 + low) 15 1 = 1 := by rw [bitsAt]; omega
  have h14 : bitsAt (0x8000 + b * 8192 + low) 14 1 = 0 := by rw [bitsAt]; omega
  have h12 : bitsAt (0x8000 + b * 8192 + low) 12 1 = 0 := by rw [bitsAt]; omega
  refine ⟨?_, by rw [bitsAt]; omega⟩
  rw [decode32, if_pos ⟨h11, h15⟩, h14, if_neg (by decide), if_pos h12]

/-- A field put together from its parts. -/
theorem ofNat_eq_of_toNat {k n : Nat} {x : BitVec k} (h : n = x.toNat) : BitVec.ofNat k n = x := by
  rw [h, BitVec.ofNat_toNat, BitVec.setWidth_eq]

theorem decode32_msr (rn : Reg) (sysm : BitVec 8) (sb : BitVec 6) {a b c : Nat} (ha : a < 2) (hb : b < 2) (hc : c < 16)
    (hsb : a * 32 + b * 16 + c = sb.toNat) :
    decode32 (0xF380 + a * 16 + rn.toNat) (0x8000 + b * 8192 + (c * 256 + sysm.toNat)) = some (.msr rn sysm sb) := by
  obtain ⟨hcontrol, h13⟩ := decode32_control (hw1 := 0xF380 + a * 16 + rn.toNat) (low := c * 256 + sysm.toNat)
    (by omega) (by omega) hb (by omega)
  have hop : bitsAt (0xF380 + a * 16 + rn.toNat) 5 6 = 28 := by rw [bitsAt]; omega
  have h4 : bitsAt (0xF380 + a * 16 + rn.toNat) 4 1 = a := by rw [bitsAt]; omega
  have hrn : field (0xF380 + a * 16 + rn.toNat) 0 4 = rn := field_eq (by omega)
  rw [hcontrol, decodeControl]
  generalize hw2 : 0x8000 + b * 8192 + (c * 256 + sysm.toNat) = w at h13 ⊢
  have h8 : bitsAt w 8 4 = c := by rw [bitsAt]; omega
  have hsysm : field w 0 8 = sysm := field_eq (by omega)
  simp only [hop, h4, hrn, h13, h8, hsysm, ofNat_eq_of_toNat hsb]

theorem decode32_mrs (rd : Reg) (sysm : BitVec 8) (sb : BitVec 6) {a b : Nat} (ha : a < 32) (hb : b < 2)
    (hsb : a * 2 + b = sb.toNat) :
    decode32 (0xF3E0 + a) (0x8000 + b * 8192 + (rd.toNat * 256 + sysm.toNat)) = some (.mrs rd sysm sb) := by
  obtain ⟨hcontrol, h13⟩ := decode32_control (hw1 := 0xF3E0 + a) (low := rd.toNat * 256 + sysm.toNat)
    (by omega) (by omega) hb (by omega)
  have hop : bitsAt (0xF3E0 + a) 5 6 = 31 := by rw [bitsAt]; omega
  have h0 : bitsAt (0xF3E0 + a) 0 5 = a := by rw [bitsAt]; omega
  rw [hcontrol, decodeControl]
  generalize hw2 : 0x8000 + b * 8192 + (rd.toNat * 256 + sysm.toNat) = w at h13 ⊢
  have hrd : field w 8 4 = rd := field_eq (by omega)
  have hsysm : field w 0 8 = sysm := field_eq (by omega)
  simp only [hop, h0, h13, hrd, hsysm, ofNat_eq_of_toNat hsb]

theorem decode32_udfW (imm16 : BitVec 16) {a low : Nat} (ha : a < 16) (hlow : low < 4096)
    (himm : a * 4096 + low = imm16.toNat) :
    decode32 (0xF7F0 + a) (0x8000 + 1 * 8192 + low) = some (.udfW imm16) := by
  obtain ⟨hcontrol, h13⟩ := decode32_control (hw1 := 0xF7F0 + a) (b := 1) (by omega) (by omega) (by omega) hlow
  have hop : bitsAt (0xF7F0 + a) 5 6 = 63 := by rw [bitsAt]; omega
  have h4 : bitsAt (0xF7F0 + a) 4 1 = 1 := by rw [bitsAt]; omega
  have h0 : bitsAt (0xF7F0 + a) 0 4 = a := by rw [bitsAt]; omega
  have hlow' : bitsAt (0x8000 + 1 * 8192 + low) 0 12 = low := by rw [bitsAt]; omega
  rw [hcontrol, decodeControl]
  simp only [hop, h4, h0, h13, hlow', and_self, if_true, ofNat_eq_of_toNat himm]

/-- The barriers, by bits [7:4] of the second halfword (30_encoding.md R158). -/
theorem decode32_barrier {mk : BitVec 4 → BitVec 9 → Instr} {opc : Nat} {option : BitVec 4} {sb : BitVec 9}
    {a b c : Nat} (hopc : opc < 16) (ha : a < 16) (hb : b < 2) (hc : c < 16) (hsb : a * 32 + b * 16 + c = sb.toNat)
    (h : ∀ hw1 hw2, bitsAt hw2 4 4 = opc → decodeBarrier hw1 hw2 = some (mk (field hw2 0 4) (barrierSb hw1 hw2))) :
    decode32 (0xF3B0 + a) (0x8000 + b * 8192 + (c * 256 + opc * 16 + option.toNat)) = some (mk option sb) := by
  obtain ⟨hcontrol, h13⟩ := decode32_control (hw1 := 0xF3B0 + a) (low := c * 256 + opc * 16 + option.toNat)
    (by omega) (by omega) hb (by omega)
  have hop : bitsAt (0xF3B0 + a) 5 6 = 29 := by rw [bitsAt]; omega
  have h4 : bitsAt (0xF3B0 + a) 4 1 = 1 := by rw [bitsAt]; omega
  have h0 : bitsAt (0xF3B0 + a) 0 4 = a := by rw [bitsAt]; omega
  rw [hcontrol, decodeControl]
  generalize hw2 : 0x8000 + b * 8192 + (c * 256 + opc * 16 + option.toNat) = w at h13 ⊢
  have hnum : bitsAt w 4 4 = opc := by rw [bitsAt]; omega
  have h8 : bitsAt w 8 4 = c := by rw [bitsAt]; omega
  have hopt : field w 0 4 = option := field_eq (by omega)
  simp only [hop, h4, if_true, h _ w hnum, hopt, barrierSb, h0, h13, h8, ofNat_eq_of_toNat hsb]

theorem decodesBack_msr (rn : Reg) (sysm : BitVec 8) (sb : BitVec 6) : DecodesBack (.msr rn sysm sb) := by
  have ha := bitsAt_lt sb.toNat 5 1
  have hb := bitsAt_lt sb.toNat 4 1
  have hc := bitsAt_lt sb.toNat 0 4
  have hsb : bitsAt sb.toNat 5 1 * 32 + bitsAt sb.toNat 4 1 * 16 + bitsAt sb.toNat 0 4 = sb.toNat := by
    simp only [bitsAt]; omega
  refine .of_decode32 (hw2 := 0x8000 + _ * 8192 + (_ * 256 + _)) ?_ (by omega) (by omega) (by omega)
    (decode32_msr rn sysm sb ha hb hc hsb)
  rw [encodeNat, Nat.add_assoc (_ + _)]

theorem decodesBack_mrs (rd : Reg) (sysm : BitVec 8) (sb : BitVec 6) : DecodesBack (.mrs rd sysm sb) := by
  have ha := bitsAt_lt sb.toNat 1 5
  have hb := bitsAt_lt sb.toNat 0 1
  have hsb : bitsAt sb.toNat 1 5 * 2 + bitsAt sb.toNat 0 1 = sb.toNat := by
    simp only [bitsAt]; omega
  refine .of_decode32 ?_ (by omega) (by omega) (by omega) (decode32_mrs rd sysm sb ha hb hsb)
  rw [encodeNat, Nat.add_assoc (_ + _)]

theorem decodesBack_udfW (imm16 : BitVec 16) : DecodesBack (.udfW imm16) := by
  have ha := bitsAt_lt imm16.toNat 12 4
  have hlow := bitsAt_lt imm16.toNat 0 12
  have himm : bitsAt imm16.toNat 12 4 * 4096 + bitsAt imm16.toNat 0 12 = imm16.toNat := by
    simp only [bitsAt]; omega
  exact .of_decode32 rfl (by omega) (by omega) (by omega) (decode32_udfW imm16 ha hlow himm)

/-- The barriers: the opcode and the option below the should-be bits (30_encoding.md R144). -/
theorem decodesBack_barrier {mk : BitVec 4 → BitVec 9 → Instr} {opc : Nat} {option : BitVec 4} {sb : BitVec 9}
    (hopc : opc < 16)
    (henc : encodeNat (mk option sb) = [(encodeBarrier opc option sb).1, (encodeBarrier opc option sb).2])
    (h : ∀ hw1 hw2, bitsAt hw2 4 4 = opc → decodeBarrier hw1 hw2 = some (mk (field hw2 0 4) (barrierSb hw1 hw2))) :
    DecodesBack (mk option sb) := by
  have ha := bitsAt_lt sb.toNat 5 4
  have hb := bitsAt_lt sb.toNat 4 1
  have hc := bitsAt_lt sb.toNat 0 4
  have hsb : bitsAt sb.toNat 5 4 * 32 + bitsAt sb.toNat 4 1 * 16 + bitsAt sb.toNat 0 4 = sb.toNat := by
    simp only [bitsAt]; omega
  refine .of_decode32 (hw2 := 0x8000 + _ * 8192 + (_ * 256 + _ * 16 + _)) ?_ (by omega) (by omega) (by omega)
    (decode32_barrier hopc ha hb hc hsb h)
  rw [henc, encodeBarrier]
  simp only [List.cons.injEq, and_true, true_and]
  omega

/-- The offset of BL is put together from the five parts its two halfwords hold (30_encoding.md R146). -/
theorem blOffset_eq {off : BitVec 24} {hw1 hw2 s i1 i2 imm10 imm11 : Nat} (hs : bitsAt hw1 10 1 = s)
    (h1 : notXor (bitsAt hw2 13 1) s = i1) (h2 : notXor (bitsAt hw2 11 1) s = i2) (h10 : bitsAt hw1 0 10 = imm10)
    (h11 : bitsAt hw2 0 11 = imm11)
    (hoff : s * 2 ^ 23 + i1 * 2 ^ 22 + i2 * 2 ^ 21 + imm10 * 2 ^ 11 + imm11 = off.toNat) : blOffset hw1 hw2 = off := by
  rw [blOffset, hs, h1, h2, h10, h11, ofNat_eq_of_toNat hoff]

theorem decodesBack_bl (off : BitVec 24) : DecodesBack (.bl off) := by
  have hs := bitsAt_lt off.toNat 23 1
  have h1 := bitsAt_lt off.toNat 22 1
  have h2 := bitsAt_lt off.toNat 21 1
  have h10 := bitsAt_lt off.toNat 11 10
  have h11 := bitsAt_lt off.toNat 0 11
  have hoff : bitsAt off.toNat 23 1 * 2 ^ 23 + bitsAt off.toNat 22 1 * 2 ^ 22 + bitsAt off.toNat 21 1 * 2 ^ 21 +
      bitsAt off.toNat 11 10 * 2 ^ 11 + bitsAt off.toNat 0 11 = off.toNat := by
    simp only [bitsAt]; omega
  have hj1 := notXor_lt (bitsAt off.toNat 22 1) (bitsAt off.toNat 23 1)
  have hj2 := notXor_lt (bitsAt off.toNat 21 1) (bitsAt off.toNat 23 1)
  have hi1 := notXor_notXor h1 (bitsAt off.toNat 23 1)
  have hi2 := notXor_notXor h2 (bitsAt off.toNat 23 1)
  refine .of_decode32 rfl ?_ ?_ ?_ ?_
  all_goals
    simp only [encodeBl]
    generalize bitsAt off.toNat 23 1 = s, bitsAt off.toNat 22 1 = i1, bitsAt off.toNat 21 1 = i2,
      bitsAt off.toNat 11 10 = imm10, bitsAt off.toNat 0 11 = imm11 at *
    generalize notXor i1 s = j1, notXor i2 s = j2 at *
  · omega
  · omega
  · omega
  · have h30 : bitsAt (0xF000 + s * 1024 + imm10) 11 5 = 30 := by
      have hdiv : (0xF000 + s * 1024 + imm10) / 2 ^ 11 = 30 := by omega
      rw [bitsAt, hdiv]
      rfl
    have h15 : bitsAt (0xD000 + j1 * 8192 + j2 * 2048 + imm11) 15 1 = 1 := by rw [bitsAt]; omega
    have h14 : bitsAt (0xD000 + j1 * 8192 + j2 * 2048 + imm11) 14 1 = 1 := by rw [bitsAt]; omega
    have h12 : bitsAt (0xD000 + j1 * 8192 + j2 * 2048 + imm11) 12 1 = 1 := by rw [bitsAt]; omega
    have hparts : blOffset (0xF000 + s * 1024 + imm10) (0xD000 + j1 * 8192 + j2 * 2048 + imm11) = off := by
      have h13 : bitsAt (0xD000 + j1 * 8192 + j2 * 2048 + imm11) 13 1 = j1 := by rw [bitsAt]; omega
      have h11' : bitsAt (0xD000 + j1 * 8192 + j2 * 2048 + imm11) 11 1 = j2 := by rw [bitsAt]; omega
      exact blOffset_eq (by rw [bitsAt]; omega) (by rw [h13, hi1]) (by rw [h11', hi2]) (by rw [bitsAt]; omega)
        (by rw [bitsAt]; omega) hoff
    rw [decode32, if_pos ⟨h30, h15⟩, if_pos h14, if_pos h12, hparts]

/-! ### Every instruction -/

theorem decodesBack_exchange {sb : BitVec 3} {rm : Reg} : DecodesBack (.bx rm sb) ∧ DecodesBack (.blx rm sb) :=
  ⟨.of_decode16 rfl (by omega) (decode16_exchange false rm sb),
    .of_decode16 rfl (by omega) (decode16_exchange true rm sb)⟩

theorem decodesBack_cps {sb : BitVec 4} : DecodesBack (.cpsie sb) ∧ DecodesBack (.cpsid sb) :=
  ⟨.of_decode16 rfl (by omega) (decode16_cps false sb), .of_decode16 rfl (by omega) (decode16_cps true sb)⟩

theorem decodesBack_push (m : Bool) (list : BitVec 8) : DecodesBack (.push m list) := by
  cases m with
  | false => exact decodesBack_miscByte (kind := 4) (by decide) rfl fun _ h => by simp only [decodeMisc, h]
  | true => exact decodesBack_miscByte (kind := 5) (by decide) rfl fun _ h => by simp only [decodeMisc, h]

theorem decodesBack_pop (p : Bool) (list : BitVec 8) : DecodesBack (.pop p list) := by
  cases p with
  | false => exact decodesBack_miscByte (kind := 12) (by decide) rfl fun _ h => by simp only [decodeMisc, h]
  | true => exact decodesBack_miscByte (kind := 13) (by decide) rfl fun _ h => by simp only [decodeMisc, h]

theorem decodesBack (h : i.encodable = true) : DecodesBack i := by
  cases i with
  | lslsImm => exact decodesBack_imm5 (op := 0) (by decide) rfl fun _ h => by simp only [decode16, h]
  | lsrsImm => exact decodesBack_imm5 (op := 1) (by decide) rfl fun _ h => by simp only [decode16, h]
  | asrsImm => exact decodesBack_imm5 (op := 2) (by decide) rfl fun _ h => by simp only [decode16, h]
  | strImm => exact decodesBack_imm5 (op := 12) (by decide) rfl fun _ h => by simp only [decode16, h]
  | ldrImm => exact decodesBack_imm5 (op := 13) (by decide) rfl fun _ h => by simp only [decode16, h]
  | strbImm => exact decodesBack_imm5 (op := 14) (by decide) rfl fun _ h => by simp only [decode16, h]
  | ldrbImm => exact decodesBack_imm5 (op := 15) (by decide) rfl fun _ h => by simp only [decode16, h]
  | strhImm => exact decodesBack_imm5 (op := 16) (by decide) rfl fun _ h => by simp only [decode16, h]
  | ldrhImm => exact decodesBack_imm5 (op := 17) (by decide) rfl fun _ h => by simp only [decode16, h]
  | movsImm => exact decodesBack_imm8 (op := 4) (by decide) rfl fun _ h => by simp only [decode16, h]
  | cmpImm => exact decodesBack_imm8 (op := 5) (by decide) rfl fun _ h => by simp only [decode16, h]
  | addsImm8 => exact decodesBack_imm8 (op := 6) (by decide) rfl fun _ h => by simp only [decode16, h]
  | subsImm8 => exact decodesBack_imm8 (op := 7) (by decide) rfl fun _ h => by simp only [decode16, h]
  | ldrLit => exact decodesBack_imm8 (op := 9) (by decide) rfl fun _ h => by simp only [decode16, h]
  | strSp => exact decodesBack_imm8 (op := 18) (by decide) rfl fun _ h => by simp only [decode16, h]
  | ldrSp => exact decodesBack_imm8 (op := 19) (by decide) rfl fun _ h => by simp only [decode16, h]
  | adr => exact decodesBack_imm8 (op := 20) (by decide) rfl fun _ h => by simp only [decode16, h]
  | addSpRd => exact decodesBack_imm8 (op := 21) (by decide) rfl fun _ h => by simp only [decode16, h]
  | stm => exact decodesBack_imm8 (op := 24) (by decide) rfl fun _ h => by simp only [decode16, h]
  | ldm => exact decodesBack_imm8 (op := 25) (by decide) rfl fun _ h => by simp only [decode16, h]
  | addsReg => exact decodesBack_addSub (op := 0) (by decide) rfl fun _ h => by simp only [decodeAddSub, h]
  | subsReg => exact decodesBack_addSub (op := 1) (by decide) rfl fun _ h => by simp only [decodeAddSub, h]
  | addsImm3 => exact decodesBack_addSub (op := 2) (by decide) rfl fun _ h => by simp only [decodeAddSub, h]
  | subsImm3 => exact decodesBack_addSub (op := 3) (by decide) rfl fun _ h => by simp only [decodeAddSub, h]
  | ands => exact decodesBack_dataProcessing (op := 0) rfl rfl
  | eors => exact decodesBack_dataProcessing (op := 1) rfl rfl
  | lslsReg => exact decodesBack_dataProcessing (op := 2) rfl rfl
  | lsrsReg => exact decodesBack_dataProcessing (op := 3) rfl rfl
  | asrsReg => exact decodesBack_dataProcessing (op := 4) rfl rfl
  | adcs => exact decodesBack_dataProcessing (op := 5) rfl rfl
  | sbcs => exact decodesBack_dataProcessing (op := 6) rfl rfl
  | rorsReg => exact decodesBack_dataProcessing (op := 7) rfl rfl
  | tst => exact decodesBack_dataProcessing (op := 8) rfl rfl
  | rsbs => exact decodesBack_dataProcessing (op := 9) rfl rfl
  | cmpReg => exact decodesBack_dataProcessing (op := 10) rfl rfl
  | cmn => exact decodesBack_dataProcessing (op := 11) rfl rfl
  | orrs => exact decodesBack_dataProcessing (op := 12) rfl rfl
  | muls => exact decodesBack_dataProcessing (op := 13) rfl rfl
  | bics => exact decodesBack_dataProcessing (op := 14) rfl rfl
  | mvns => exact decodesBack_dataProcessing (op := 15) rfl rfl
  | addHigh => exact decodesBack_high (op := 0) (by decide) rfl fun _ h => by simp only [decodeSpecialData, h]
  | cmpHigh => exact decodesBack_high (op := 1) (by decide) rfl fun _ h => by simp only [decodeSpecialData, h]
  | movHigh => exact decodesBack_high (op := 2) (by decide) rfl fun _ h => by simp only [decodeSpecialData, h]
  | strReg => exact decodesBack_loadStoreReg (op := 0) (by decide) rfl fun _ h => by simp only [decodeLoadStoreReg, h]
  | strhReg => exact decodesBack_loadStoreReg (op := 1) (by decide) rfl fun _ h => by simp only [decodeLoadStoreReg, h]
  | strbReg => exact decodesBack_loadStoreReg (op := 2) (by decide) rfl fun _ h => by simp only [decodeLoadStoreReg, h]
  | ldrsbReg => exact decodesBack_loadStoreReg (op := 3) (by decide) rfl fun _ h => by simp only [decodeLoadStoreReg, h]
  | ldrReg => exact decodesBack_loadStoreReg (op := 4) (by decide) rfl fun _ h => by simp only [decodeLoadStoreReg, h]
  | ldrhReg => exact decodesBack_loadStoreReg (op := 5) (by decide) rfl fun _ h => by simp only [decodeLoadStoreReg, h]
  | ldrbReg => exact decodesBack_loadStoreReg (op := 6) (by decide) rfl fun _ h => by simp only [decodeLoadStoreReg, h]
  | ldrshReg => exact decodesBack_loadStoreReg (op := 7) (by decide) rfl fun _ h => by simp only [decodeLoadStoreReg, h]
  | sxth =>
    exact decodesBack_misc (kind := 2) (op := 0) (by decide) (by decide) rfl
      fun _ hk h => by simp only [decodeMisc, hk, h]
  | sxtb =>
    exact decodesBack_misc (kind := 2) (op := 1) (by decide) (by decide) rfl
      fun _ hk h => by simp only [decodeMisc, hk, h]
  | uxth =>
    exact decodesBack_misc (kind := 2) (op := 2) (by decide) (by decide) rfl
      fun _ hk h => by simp only [decodeMisc, hk, h]
  | uxtb =>
    exact decodesBack_misc (kind := 2) (op := 3) (by decide) (by decide) rfl
      fun _ hk h => by simp only [decodeMisc, hk, h]
  | rev =>
    exact decodesBack_misc (kind := 10) (op := 0) (by decide) (by decide) rfl
      fun _ hk h => by simp only [decodeMisc, hk, h]
  | rev16 =>
    exact decodesBack_misc (kind := 10) (op := 1) (by decide) (by decide) rfl
      fun _ hk h => by simp only [decodeMisc, hk, h]
  | revsh =>
    exact decodesBack_misc (kind := 10) (op := 3) (by decide) (by decide) rfl
      fun _ hk h => by simp only [decodeMisc, hk, h]
  | bx => exact decodesBack_exchange.1
  | blx => exact decodesBack_exchange.2
  | addSpImm imm7 => exact .of_coded rfl (by omega) (coded_addSpImm imm7)
  | subSpImm imm7 => exact .of_coded rfl (by omega) (coded_subSpImm imm7)
  | push m list => exact decodesBack_push m list
  | pop p list => exact decodesBack_pop p list
  | cpsie => exact decodesBack_cps.1
  | cpsid => exact decodesBack_cps.2
  | bkpt => exact decodesBack_miscByte (kind := 14) (by decide) rfl fun _ h => by simp only [decodeMisc, h]
  | nop | yieldHint | wfe | wfi | sev => exact .of_decode16 rfl (by decide) rfl
  | reservedHint => exact decodesBack_reservedHint (of_decide_eq_true h)
  | bCond c imm8 => exact decodesBack_bCond c imm8
  | udf imm8 => exact .of_decode16 rfl (by omega) (decode16_condBranch (op := 14) (by decide) imm8)
  | svc imm8 => exact .of_decode16 rfl (by omega) (decode16_condBranch (op := 15) (by decide) imm8)
  | b imm11 => exact decodesBack_b imm11
  | bl off => exact decodesBack_bl off
  | msr rn sysm sb => exact decodesBack_msr rn sysm sb
  | mrs rd sysm sb => exact decodesBack_mrs rd sysm sb
  | dsb => exact decodesBack_barrier (opc := 4) (by decide) rfl fun _ _ h => by simp only [decodeBarrier, h]
  | dmb => exact decodesBack_barrier (opc := 5) (by decide) rfl fun _ _ h => by simp only [decodeBarrier, h]
  | isb => exact decodesBack_barrier (opc := 6) (by decide) rfl fun _ _ h => by simp only [decodeBarrier, h]
  | udfW imm16 => exact decodesBack_udfW imm16

/-- A number below 2^16 as a halfword. -/
theorem toNat_ofNat_half {n : Nat} (h : n < 65536) : (BitVec.ofNat 16 n : Half).toNat = n := by
  rw [BitVec.toNat_ofNat, Nat.mod_eq_of_lt h]

/-- Settles O1: the bytes give the halfwords back, and each format gives its fields back. -/
theorem decodeOfEncodedBytes : Obligations.DecodeOfEncodedBytes := by
  intro i rest h
  obtain ⟨w, henc, hlt, hdec⟩ | ⟨hw1, hw2, henc, hlo, h1, h2, hdec⟩ := decodesBack h
  · have hw := toNat_ofNat_half (n := w) (by omega)
    have hwidth : isWide (BitVec.ofNat 16 w : Half).toNat = false := by
      rw [hw, isWide, bitsAt]
      exact decide_eq_false (by omega)
    rw [encodeBytes_of_encodeNat (hws := [BitVec.ofNat 16 w]) (by simp [henc, hw])]
    simp only [List.flatMap_cons, List.flatMap_nil, List.append_nil, halfBytes, List.cons_append, List.nil_append]
    rw [decode_narrow (by rwa [halfOfBytes_halfBytes]), halfOfBytes_halfBytes,
      decodeHalves_eq_ok.mpr (by rw [hwidth, hw]; exact hdec)]
    rfl
  · have hw := toNat_ofNat_half h1
    have hw' := toNat_ofNat_half h2
    have hwidth : isWide (BitVec.ofNat 16 hw1 : Half).toNat = true := by
      rw [hw, isWide, bitsAt]
      exact decide_eq_true (by omega)
    rw [encodeBytes_of_encodeNat (hws := [BitVec.ofNat 16 hw1, BitVec.ofNat 16 hw2]) (by simp [henc, hw, hw'])]
    simp only [List.flatMap_cons, List.flatMap_nil, List.append_nil, halfBytes, List.cons_append, List.nil_append]
    rw [decode_wide (by rwa [halfOfBytes_halfBytes]), halfOfBytes_halfBytes, halfOfBytes_halfBytes,
      decodeHalves_eq_ok.mpr (by rw [hwidth, hw, hw']; exact hdec)]
    rfl

end Sys2Proof.Machine
end

section
/-! PROOF. What holds of the state after reset, of the examples' words, of entering a handler and of the returns that
are refused: each read off the definition that says it. -/

namespace Sys2Proof.Machine

open Sys2Proof.Claims

variable {s t u : State} {addr : Word}

/-- Settles O3: the decoder is run on each word. -/
theorem exampleWordsDecode : Obligations.ExampleWordsDecode :=
  ⟨rfl, rfl, rfl, rfl, rfl, rfl, rfl, rfl⟩

/-- Settles O52: the fields are the definition's, and every level is 0. -/
theorem resetLeavesTheStatedValues : Obligations.ResetLeavesTheStatedValues :=
  ⟨rfl, rfl, rfl, rfl, rfl, rfl, rfl, by decide, rfl, rfl, rfl, rfl, rfl, rfl, rfl, rfl⟩

/-- Settles O56: memory is empty, the pointers are 0, and no exception is pending or active. -/
theorem invariantHoldsAtReset : Obligations.InvariantHoldsAtReset where
  memory := rfl
  stackPointers := ⟨rfl, rfl⟩
  pc := rfl
  spsel h := absurd h (by decide)
  exceptions := ⟨rfl, rfl⟩
  mode _ := .inl ⟨rfl, rfl⟩

/-- Settles O31: it is the entry's own rule, for any return address. -/
theorem exceptionEntryStacksAndEnters : Obligations.ExceptionEntryStacksAndEnters :=
  fun _ _ _ h => takeException_entered h

/-! ### Refused returns -/

/-- A reserved EXC_RETURN value (60_exceptions.md R416). -/
theorem exceptionReturn_of_reserved (h1 : addr ≠ 0xFFFFFFF1#32) (h9 : addr ≠ 0xFFFFFFF9#32)
    (hD : addr ≠ 0xFFFFFFFD#32) : exceptionReturn addr s = .refused .reservedExcReturn := by
  rw [exceptionReturn, if_neg h1, if_neg (not_or_intro h9 hD)]

/-- A return to Handler mode with no other exception active (60_exceptions.md R416). -/
theorem exceptionReturn_of_none (h : s.othersActive = false) :
    exceptionReturn 0xFFFFFFF1#32 s = .refused .inconsistentExcReturn := by
  rw [exceptionReturn, if_pos rfl, if_neg (ne_true_of_eq_false h)]

/-- A return to Thread mode with another exception active (60_exceptions.md R416). -/
theorem exceptionReturn_of_others (ha : addr = 0xFFFFFFF9#32 ∨ addr = 0xFFFFFFFD#32) (h : s.othersActive = true) :
    exceptionReturn addr s = .refused .inconsistentExcReturn := by
  have h1 : addr ≠ 0xFFFFFFF1#32 := by rcases ha with rfl | rfl <;> decide
  rw [exceptionReturn, if_neg h1, if_pos ha, if_pos h]

/-- In Handler mode BLX does not return from an exception (60_exceptions.md R415). -/
theorem blxWritePc_of_return (hmode : s.ipsr ≠ 0) (haddr : 0xF0000000 ≤ addr.toNat) :
    blxWritePc addr s = .refused .blxExcReturn := by
  have hhandler : s.threadMode = false := beq_eq_false_iff_ne.mpr hmode
  exact if_pos (by rw [hhandler, (excReturnLike_iff addr).mpr haddr]; rfl)

/-- Settles O37: the value decides the branch of the return. -/
theorem reservedReturnsRefused : Obligations.ReservedReturnsRefused := by
  refine ⟨fun i s u addr h => ?returns, fun s rm hmode h13 h15 haddr => ?blx⟩
  case returns =>
    rw [exec_of_returnsBy h]
    refine ⟨exceptionReturn_of_reserved, ?_, exceptionReturn_of_others⟩
    rintro rfl
    exact exceptionReturn_of_none
  case blx => rw [exec_blx h13 h15, blxWritePc_of_return (by exact hmode) haddr]

/-! ### Steps of a processor that does not run -/

/-- Once the agents have acted, the processor is at the same place and in the same run state. -/
theorem agents_run_pc (s : State) : s.nextEnv.agents.run = s.run ∧ s.nextEnv.agents.pc = s.pc := by
  have hcore := (agents_sameCore (s := s.nextEnv)).1
  rw [hcore.run, hcore.pc, nextEnv_eq]
  exact ⟨rfl, rfl⟩

/-- Out of reset a step is what the processor does once the agents have acted (00_scope.md R13). -/
theorem step_eq_act (hreset : s.nextEnv.env.reset = false) (hrun : s.run ≠ .inReset) :
    step s = act s.nextEnv.agents := by
  have hrun' : s.nextEnv.run ≠ .inReset := by rwa [nextEnv_eq]
  simp only [step, hreset, if_neg hrun', Bool.false_eq_true, if_false]

theorem act_of_sleeping {w : WakeSet} (h : s.run = .sleeping w) : act s = sleepStep w s := by
  simp only [act, h]

theorem sleepStep_of_preempting {w : WakeSet} {n : Nat} (h : s.preempting = some n) :
    sleepStep w s = takeException n s.pc s := by
  simp only [sleepStep, h]

/-- What ends a sleep by WFI when no exception is taken (60_exceptions.md R465). -/
theorem sleepStep_wfi (h : s.preempting = none) :
    sleepStep .wfi s = .next (if s.wakesMasked = true ∨ s.env.wake = true then s.wakeUp else s) := by
  simp only [sleepStep, h, Bool.or_eq_true]
  split <;> rfl

/-- What ends a sleep by WFE when no exception is taken (60_exceptions.md R462). -/
theorem sleepStep_wfe (h : s.preempting = none) :
    sleepStep .wfe s = .next (if s.event = true then s.clearEvent.wakeUp
      else if s.env.wake = true then s.wakeUp else s) := by
  simp only [sleepStep, h]
  repeat' split
  all_goals rfl

/-- Settles O51: the step is the sleeping processor's, and what waits decides its branch. -/
theorem sleepEndsAsTheRulesSay : Obligations.SleepEndsAsTheRulesSay := by
  intro s w hreset hrun a
  obtain ⟨hrun', hpc⟩ := agents_run_pc s
  have hstep : step s = sleepStep w a := by
    rw [step_eq_act hreset (by rw [hrun]; exact RunState.noConfusion), act_of_sleeping (hrun'.trans hrun)]
  rw [hstep]
  refine ⟨fun n hn => by rw [sleepStep_of_preempting hn, hpc], fun hnone => ⟨?_, ?_, ?_, ?_, ?_⟩⟩
  · rintro rfl h
    rw [sleepStep_wfi hnone, if_pos h]
    rfl
  · rintro rfl hmasked hwake
    rw [sleepStep_wfi hnone, hmasked, hwake, if_neg (by decide)]
  · rintro rfl hevent
    rw [sleepStep_wfe hnone, if_pos hevent]
    rfl
  · rintro rfl hevent hwake
    rw [sleepStep_wfe hnone, if_neg (ne_true_of_eq_false hevent), if_pos hwake]
    rfl
  · rintro rfl hevent hwake
    rw [sleepStep_wfe hnone, if_neg (ne_true_of_eq_false hevent), if_neg (ne_true_of_eq_false hwake)]

/-- The two words of the vector table that the reset sequence reads (70_reset_and_hazards.md R480). -/
theorem resetSequence_of_readable (h0 : readable s 0) (h4 : readable s 4) :
    resetSequence s = .next (s.resetCore.boot (wordAt s 0) (wordAt s 4)) := by
  have hreadable : ∀ j < 2, readable s.resetCore (nth 0 j)
    | 0, _ => h0
    | 1, _ => h4
  rw [resetSequence, loadWords_eq rfl hreadable]
  rfl

/-- Settles O53: the environment's choices come before, the reset values and the two words after. -/
theorem releasedResetBoots : Obligations.ReleasedResetBoots := by
  intro s hrun hreset h0 h4
  have hrun' : s.nextEnv.run = .inReset := by rwa [nextEnv_eq]
  have hstep : step s = resetSequence s.nextEnv := by
    simp only [step, hreset, if_pos hrun', Bool.false_eq_true, if_false]
  rw [nextEnv_eq] at hstep
  refine ⟨_, hstep.trans (resetSequence_of_readable h0 h4), ?_⟩
  exact ⟨rfl, rfl, rfl, rfl, rfl, rfl, rfl, rfl, rfl, rfl, rfl, rfl, rfl, rfl, rfl, rfl⟩

end Sys2Proof.Machine
end

section
/-! PROOF. After a comparison the conditions order the operands (40_instruction_conventions.md section 4). The idea: the
exact difference D of two signed words lies within 2^32 of 0, and the result is D or D shifted by 2^32; overflow says
which, so N and V together give the sign of D. -/

namespace Sys2Proof.Machine

open Sys2Proof.Claims

variable {x y : Word}

/-- The result as a signed number: the exact difference, or that shifted into range. -/
theorem toInt_sub_cases (x y : Word) :
    (-2 ^ 31 ≤ x.toInt - y.toInt ∧ x.toInt - y.toInt < 2 ^ 31 ∧ (x - y).toInt = x.toInt - y.toInt) ∨
    (x.toInt - y.toInt < -2 ^ 31 ∧ (x - y).toInt = x.toInt - y.toInt + 2 ^ 32 ∧ 0 ≤ (x - y).toInt) ∨
    (2 ^ 31 ≤ x.toInt - y.toInt ∧ (x - y).toInt = x.toInt - y.toInt - 2 ^ 32 ∧ (x - y).toInt < 0) := by
  have hx := x.toInt_lt
  have hx' := x.le_toInt
  have hy := y.toInt_lt
  have hy' := y.le_toInt
  rw [BitVec.toInt_sub, Int.bmod_def]
  split <;> omega

theorem sub_eq_zero_iff_eq : x - y = 0 ↔ x = y := by
  constructor
  · intro h
    bv_omega
  · rintro rfl
    bv_omega

/-- What each flag of a comparison says (42_arith_logic_shift_compare.md R307). -/
theorem subFlags_iff (x y : Word) :
    ((subFlags x y 0).n = true ↔ (x - y).toInt < 0) ∧ ((subFlags x y 0).z = true ↔ x = y) ∧
    ((subFlags x y 0).c = true ↔ y.toNat ≤ x.toNat) ∧
    ((subFlags x y 0).v = true ↔ (x - y).toInt ≠ x.toInt - y.toInt) := by
  have hzero : x - y - BitVec.ofNat 32 0 = x - y := by simp
  refine ⟨?_, ?_, ?_, ?_⟩
  · rw [subFlags, hzero, BitVec.msb_eq_toInt, decide_eq_true_iff]
  · rw [subFlags, hzero, decide_eq_true_iff, sub_eq_zero_iff_eq]
  · rw [subFlags, decide_eq_true_iff, Nat.add_zero]
  · rw [subFlags, hzero, decide_eq_true_iff, Nat.cast_zero, sub_zero]

/-- N differs from V exactly when the exact difference is negative. -/
theorem subFlags_signed (x y : Word) :
    ((subFlags x y 0).n = (subFlags x y 0).v) ↔ y.toInt ≤ x.toInt := by
  obtain ⟨hn, -, -, hv⟩ := subFlags_iff x y
  rw [Bool.eq_iff_iff, hn, hv]
  obtain h | h | h := toInt_sub_cases x y <;> omega

theorem exec_cmpReg (rn rm : LowReg) (s : State) :
    exec (.cmpReg rn rm) s = .next { s with flags := subFlags (s.lo rn) (s.lo rm) 0, pc := s.pc + 2 } :=
  congrArg Host.Outcome.next compareSum_subtract

/-- Settles O19: each condition is a combination of the four flags. -/
theorem comparisonThenConditionOrders : Obligations.ComparisonThenConditionOrders := by
  intro s rn rm
  refine ⟨_, exec_cmpReg rn rm s, ?_⟩
  intro x y
  obtain ⟨hn, hz, hc, hv⟩ := subFlags_iff x y
  have hsigned := subFlags_signed x y
  rw [show s.lo rn = x from rfl, show s.lo rm = y from rfl]
  have hint : x.toNat = y.toNat ↔ x.toInt = y.toInt := BitVec.toNat_inj.trans BitVec.toInt_inj.symm
  have hrange := toInt_sub_cases x y
  simp only [Flags.passes, Bool.and_eq_true, Bool.or_eq_true, Bool.not_eq_true', bne_iff_ne, beq_iff_eq,
    ← Bool.not_eq_true, ne_eq, hn, hz, hc, hv, hsigned, ← BitVec.toNat_inj, true_and]
  generalize (x - y).toInt = d, x.toInt = a, y.toInt = b, x.toNat = m, y.toNat = n at *
  and_intros
  all_goals omega

end Sys2Proof.Machine
end

section
/-! PROOF. The moves and additions on any registers (43_move_mul_rev_extend_test.md section 1): one rule for writing any
register but the PC, with SP rounded down. -/

namespace Sys2Proof.Machine

variable {rd m : Reg} {v : Word}

theorem State.x_setX_sp (s : State) (v : Word) : (s.setX 13 v).x 13 = wordAligned v := by
  simp only [State.x, if_true, State.sp, State.usesPsp_setX, State.setX_psp, State.setX_msp, true_and]
  cases s.usesPsp <;> rfl

theorem State.x_setX_sp_of_ne (hm : m ≠ 13) (s : State) (v : Word) : (s.setX 13 v).x m = s.x m := by
  have hr : s.r.setIfInBounds (13 : Reg).toNat v = s.r := by
    rw [Vector.setIfInBounds_eq_of_size_le (by decide)]
  simp only [State.x, if_neg hm, State.setX_lr, State.setX_r, hr, State.pcOperand, State.setX_pc]
  rfl

/-- What writing any register but the PC does (10_state.md section 1). -/
theorem setX_writes_one (hrd : rd ≠ 15) (s : State) (v : Word) :
    ((s.setX rd v).advance 2).x rd = (if rd = 13 then wordAligned v else v) ∧
    (∀ m : Reg, m ≠ rd → m ≠ 15 → ((s.setX rd v).advance 2).x m = s.x m) ∧
    (if s.usesPsp then ((s.setX rd v).advance 2).msp = s.msp else ((s.setX rd v).advance 2).psp = s.psp) := by
  refine ⟨?self, fun m hm hm15 => ?others, ?otherStack⟩
  case self =>
    rw [State.x_advance hrd]
    by_cases h13 : rd = 13
    · rw [if_pos h13, h13, State.x_setX_sp]
    · rw [if_neg h13, State.x_setX_self h13 hrd]
  case others =>
    rw [State.x_advance hm15]
    by_cases h13 : rd = 13
    · rw [h13, State.x_setX_sp_of_ne (h13 ▸ hm)]
    · rw [State.x_setX_of_ne h13 hm]
  case otherStack =>
    cases h : s.usesPsp
    · exact if_neg (by simp [h])
    · exact if_neg (by simp [h])

theorem exec_movHigh (hrd : rd ≠ 15) (rm : Reg) (s : State) :
    exec (.movHigh rd rm) s = .next ((s.setX rd (s.x rm)).advance 2) := if_neg hrd

theorem exec_addHigh (hrd : rd ≠ 15) (rm : Reg) (s : State) :
    exec (.addHigh rd rm) s = .next ((s.setX rd (s.x rd + s.x rm)).advance 2) :=
  (if_neg fun h => hrd h.1).trans (if_neg hrd)

/-- Settles O17: both instructions write one register and move on. -/
theorem highMovesWriteOneRegister : Obligations.HighMovesWriteOneRegister := by
  intro s rd rm hrd
  obtain ⟨hmov, hmovOthers, hmovStack⟩ := setX_writes_one hrd s (s.x rm)
  obtain ⟨hadd, haddOthers, haddStack⟩ := setX_writes_one hrd s (s.x rd + s.x rm)
  exact ⟨⟨_, exec_movHigh hrd rm s, hmov, hmovOthers, rfl, hmovStack⟩,
    ⟨_, exec_addHigh hrd rm s, hadd, haddOthers, rfl, haddStack⟩⟩

end Sys2Proof.Machine
end

section
/-! PROOF. The system timer over many cycles (60_exceptions.md section 9). The idea: until it expires, only CURRENT has
moved, so k cycles after a reload the whole state is known. -/

namespace Sys2Proof.Machine

variable {s : State} {k : Nat}

/-- The last of several cycles. -/
theorem State.ticks_succ (s : State) (n : Nat) : s.ticks (n + 1) = (s.ticks n).tick := by
  induction n generalizing s with
  | zero => rfl
  | succ n ih => exact ih s.tick

theorem State.ticks_of_tick_eq (h : s.tick = s) (n : Nat) : s.ticks n = s := by
  induction n with
  | zero => rfl
  | succ n ih => rw [State.ticks_succ, ih, h]

/-- A stopped timer: without its enable bit, without its clock, or with nothing to count (60_exceptions.md R452). -/
theorem State.tick_of_stopped (h : s.sysTick.enable = false ∨
    (s.sysTick.clkSource = false ∧ s.platform.refClock = false) ∨
    (s.sysTick.reload = 0 ∧ s.sysTick.current = 0)) : s.tick = s := by
  obtain henable | ⟨hclk, href⟩ | ⟨hreload, hcurrent⟩ := h
  · simp [State.tick, State.sysTickClocked, henable]
  · simp [State.tick, State.sysTickClocked, hclk, href]
  · have hcount : s.count = s := by
      rw [State.count, if_pos hcurrent, hreload, ← hcurrent]
    rw [State.tick, hcount, ite_self]

/-- The state with the timer at a count. -/
def State.atCount (s : State) (n : Nat) : State :=
  { s with sysTick := { s.sysTick with current := BitVec.ofNat 24 n } }

theorem State.atCount_clocked (s : State) (n : Nat) : (s.atCount n).sysTickClocked = s.sysTickClocked := rfl

/-- The first cycle from 0 reloads. -/
theorem State.tick_of_zero (hclk : s.sysTickClocked = true) (h : s.sysTick.current = 0) :
    s.tick = s.atCount s.sysTick.reload.toNat := by
  rw [State.tick, if_pos hclk, State.count, if_pos h, State.atCount, BitVec.ofNat_toNat, BitVec.setWidth_eq]

/-- Above 1 a cycle only counts down. -/
theorem State.tick_atCount {n : Nat} (hclk : s.sysTickClocked = true) (hn : 1 ≤ n) (hlt : n + 1 < 2 ^ 24) :
    (s.atCount (n + 1)).tick = s.atCount n := by
  have hsucc : BitVec.ofNat 24 (n + 1) - 1 = BitVec.ofNat 24 n := by
    rw [BitVec.ofNat_add]
    exact BitVec.add_sub_cancel _ _
  have h0 : BitVec.ofNat 24 (n + 1) ≠ 0 := by bv_omega
  have h1 : BitVec.ofNat 24 (n + 1) ≠ 1 := by bv_omega
  rw [State.tick, if_pos (by rwa [State.atCount_clocked]), State.count, if_neg (by exact h0), if_neg (by exact h1)]
  simp only [State.atCount, hsucc]

/-- At 1 a cycle expires. -/
theorem State.tick_atCount_one (hclk : s.sysTickClocked = true) :
    (s.atCount 1).tick.sysTick.current = 0 ∧ (s.atCount 1).tick.sysTick.countFlag = true ∧
    (s.atCount 1).tick.nvic.pending.getLsbD 15 = (s.sysTick.tickInt || s.nvic.pending.getLsbD 15) := by
  have hone : (s.atCount 1).sysTick.current = 1 := rfl
  have hne : (s.atCount 1).sysTick.current ≠ 0 := by rw [hone]; decide
  rw [State.tick, if_pos (by rwa [State.atCount_clocked]), State.count, if_neg hne, if_pos hone]
  have htick : (s.atCount 1).sysTick.tickInt = s.sysTick.tickInt := rfl
  cases h : s.sysTick.tickInt
  · rw [htick, h]
    exact ⟨rfl, rfl, rfl⟩
  · rw [htick, h]
    exact ⟨rfl, rfl, getLsbD_setBit_self (by decide)⟩

/-- Before it expires the timer has only counted down from RELOAD. -/
theorem State.ticks_eq_atCount (hclk : s.sysTickClocked = true) (h0 : s.sysTick.current = 0) (hk : 1 ≤ k)
    (hle : k ≤ s.sysTick.reload.toNat) : s.ticks k = s.atCount (s.sysTick.reload.toNat + 1 - k) := by
  induction k, hk using Nat.le_induction with
  | base => exact State.tick_of_zero hclk h0
  | succ k hk ih =>
    have hstep : s.sysTick.reload.toNat + 1 - k = s.sysTick.reload.toNat + 1 - (k + 1) + 1 := by omega
    rw [State.ticks_succ, ih (by omega), hstep, State.tick_atCount hclk (by omega) (by omega)]

/-- Settles O42: the state at each count, and the cycle from 1 to 0. -/
theorem timerPeriodIsReloadPlusOne : Obligations.TimerPeriodIsReloadPlusOne := by
  refine fun s k => ⟨fun hclk h0 hreload => ⟨fun hk hle => ?counting, ?expired⟩,
    fun h => State.ticks_of_tick_eq (State.tick_of_stopped h) k⟩
  case counting =>
    rw [State.ticks_eq_atCount hclk h0 hk hle]
    refine ⟨?_, rfl, rfl⟩
    exact (BitVec.toNat_ofNat _ _).trans (Nat.mod_eq_of_lt (by omega))
  case expired =>
    rintro rfl
    rw [State.ticks_succ, State.ticks_eq_atCount hclk h0 hreload le_rfl, Nat.add_sub_cancel_left]
    exact State.tick_atCount_one hclk

end Sys2Proof.Machine
end

section
/-! PROOF. The interrupt registers read back what was written (60_exceptions.md section 7): the enable and pending bits
one by one, the priorities byte by byte. -/

namespace Sys2Proof.Machine

open Sys2Proof.Claims

variable {s : State} {v : Word} {k : BitVec 3} {i j : Nat}

theorem irqBits_or_ofIrqBits (b : BitVec 48) (w : BitVec 32) : irqBits (b ||| ofIrqBits w) = irqBits b ||| w := by
  refine BitVec.eq_of_getLsbD_eq fun i hi => ?_
  rw [getLsbD_irqBits _ hi, BitVec.getLsbD_or, getLsbD_ofIrqBits _ hi, BitVec.getLsbD_or, getLsbD_irqBits _ hi]

theorem irqBits_and_not_ofIrqBits (b : BitVec 48) (w : BitVec 32) :
    irqBits (b &&& ~~~ofIrqBits w) = irqBits b &&& ~~~w := by
  refine BitVec.eq_of_getLsbD_eq fun i hi => ?_
  rw [getLsbD_irqBits _ hi, BitVec.getLsbD_and, BitVec.getLsbD_not, getLsbD_ofIrqBits _ hi, BitVec.getLsbD_and,
    BitVec.getLsbD_not, getLsbD_irqBits _ hi, decide_eq_true hi, decide_eq_true (by omega)]

/-! ### Priorities -/

/-- The level of an interrupt after a write of its word of priorities is that of its byte. -/
theorem irqPrio_writeIpr (s : State) (v : Word) (k : BitVec 3) (hj : j < 4) :
    (s.writeIpr k v).nvic.irqPrio.toList.getD (4 * k.toNat + j) 0 = levelOf v (8 * j) := by
  have hsize : 4 * k.toNat + j < 32 := by omega
  rw [List.getD_eq_getElem?_getD, Vector.getElem?_toList, State.writeIpr]
  have hsize0 : 4 * k.toNat < 32 := by omega
  interval_cases j <;> simp [hsize, hsize0]

/-- A level keeps the two upper bits of its byte (10_state.md R47). -/
theorem levelByte_levelOf (v : Word) (lo : Nat) : levelByte (levelOf v lo) = v.extractLsb' lo 8 &&& 0xC0#8 := by
  refine BitVec.eq_of_getLsbD_eq fun i hi => ?_
  rw [levelByte, levelOf, BitVec.getLsbD_append, BitVec.getLsbD_and, BitVec.getLsbD_extractLsb']
  interval_cases i <;> simp

/-- A word masked byte by byte. -/
theorem append_bytes_and (v : Word) (m : BitVec 8) :
    (v.extractLsb' 24 8 &&& m) ++ (v.extractLsb' 16 8 &&& m) ++ (v.extractLsb' 8 8 &&& m) ++ (v.extractLsb' 0 8 &&& m) =
      v &&& (m ++ m ++ m ++ m) := by
  refine BitVec.eq_of_getLsbD_eq fun i hi => ?_
  simp only [BitVec.getLsbD_append, BitVec.getLsbD_and, BitVec.getLsbD_extractLsb']
  interval_cases i <;> simp

theorem read_ipr_writeIpr (s : State) (v : Word) (k : BitVec 3) :
    ((s.writeIpr k v).ppbRead (.ipr k)).1 = v &&& 0xC0C0C0C0#32 := by
  have hlevel := fun j (hj : j < 4) => irqPrio_writeIpr s v k hj
  rw [State.ppbRead, Nvic.iprWord]
  dsimp only
  rw [hlevel 3 (by decide), hlevel 2 (by decide), hlevel 1 (by decide), hlevel 0 (by decide), levelByte_levelOf,
    levelByte_levelOf, levelByte_levelOf, levelByte_levelOf]
  exact append_bytes_and v 0xC0#8

theorem toNat_levelOf (v : Word) (j : Nat) : (levelOf v (8 * j)).toNat = (byteAt v j).toNat / 64 := by
  rw [levelOf, byteAt, BitVec.extractLsb'_toNat, BitVec.extractLsb'_toNat, Nat.shiftRight_eq_div_pow,
    Nat.shiftRight_eq_div_pow, Nat.pow_add, ← Nat.div_div_eq_div_mul]
  omega

/-- The priority an interrupt is compared by after the write (60_exceptions.md R406). -/
theorem priority_writeIpr (s : State) (v : Word) (k : BitVec 3) (hj : j < 4) :
    (s.writeIpr k v).nvic.priority (16 + (4 * k.toNat + j)) = ((byteAt v j).toNat / 64 * 64 : Nat) := by
  have hpriority : ∀ (w : Nvic) (m : Nat), w.priority (16 + m) = levelPriority (w.irqPrio.toList.getD m 0) := by
    intro w m
    rw [Nvic.priority, if_neg (by omega), if_neg (by simp only [excNmi]; omega),
      if_neg (by simp only [excHardFault]; omega),
      if_neg (by simp only [excSvCall]; omega), if_neg (by simp only [excPendSv]; omega),
      if_neg (by simp only [excSysTick]; omega), if_pos (by omega), Nat.add_sub_cancel_left]
  rw [hpriority, irqPrio_writeIpr s v k hj, levelPriority_eq_cast, toNat_levelOf, Nat.mul_comm]

/-- Settles O43: the writes are the record updates of the statement, the reads go bit by bit and byte by byte. -/
theorem interruptRegistersReadBack : Obligations.InterruptRegistersReadBack :=
  fun s v k _ hj => ⟨rfl, rfl, rfl, rfl, rfl, irqBits_or_ofIrqBits _ _, rfl, irqBits_and_not_ofIrqBits _ _, rfl, rfl,
    read_ipr_writeIpr s v k, priority_writeIpr s v k hj⟩

end Sys2Proof.Machine
end

section
/-! PROOF. The single loads and stores in memory, and where they fault (20_memory.md sections 1 to 3,
41_memory_access.md sections 2 to 4). The idea: every form is the one load or the one store of its width at its address,
so that one rule for reading stored bytes, one for storing and one for faulting serve all seventeen. -/

namespace Sys2Proof.Machine

open Sys2Proof.Claims

variable {s t : State} {a v : Word} {n k : Nat} {rt rn rm : LowReg} {imm5 : BitVec 5} {imm8 : BitVec 8} {i : Instr}
  {list : RegList}

/-! ### Addresses -/

theorem toNat_add_scaled {w : Nat} (base : Word) (imm : BitVec w) (scale : Nat) :
    (base + scaled imm scale).toNat = (base.toNat + imm.toNat * scale) % 2 ^ 32 := by
  rw [BitVec.toNat_add, scaled, BitVec.toNat_ofNat, Nat.add_mod_mod]

theorem toNat_addrLit (s : State) (imm8 : BitVec 8) :
    (s.addrLit imm8).toNat = ((s.pc.toNat + 4) % 2 ^ 32 / 4 * 4 + imm8.toNat * 4) % 2 ^ 32 := by
  have hpc : s.pcOperand.toNat = (s.pc.toNat + 4) % 2 ^ 32 := BitVec.toNat_add _ _
  rw [State.addrLit, toNat_add_scaled, State.pcBase, toNat_wordAligned, hpc]

/-! ### Loads -/

theorem memRead_of_readable (ha : a.toNat % n = 0) (h : readable s a) : memRead n a s = .ok (s.stored n a) s := by
  obtain ⟨hp, hk | hk | hk⟩ := h <;> simp [memRead, ha, hp, hk]

/-- A load of stored bytes answers them, extended. -/
theorem loads_of_mem {signed : Bool} (hi : (i, a, n, signed) ∈ loadForms s rt rn rm imm5 imm8) (ha : a.toNat % n = 0)
    (h : readable s a) : loads i s rt (extended n signed (s.stored n a)) := by
  rw [loads, exec_of_mem_loadForms hi, loadLow_of_ok _ _ (memRead_of_readable ha h)]

theorem setWidth_stored_two (s : State) (a : Word) : (s.stored 2 a).setWidth 16 = halfAt s a := by
  apply BitVec.eq_of_toNat_eq
  simp only [State.stored, halfAt, Memory.load, toNat_append_byte, BitVec.toNat_setWidth, BitVec.toNat_ofNat]
  omega

theorem setWidth_stored_one (s : State) (a : Word) : (s.stored 1 a).setWidth 8 = byteOf s a := by
  apply BitVec.eq_of_toNat_eq
  simp only [State.stored, byteOf, Memory.load, BitVec.toNat_setWidth, BitVec.toNat_ofNat]
  omega

/-- Settles O21: the forms of a width are one load, and the stored bytes are the word, the halfword or the byte. -/
theorem loadsReadLittleEndian : Obligations.LoadsReadLittleEndian := by
  intro s rt rn rm imm5 imm8 scale
  have hforms {i : Instr} {a : Word} {n : Nat} {signed : Bool} :=
    loads_of_mem (s := s) (a := a) (n := n) (rt := rt) (rn := rn) (rm := rm) (imm5 := imm5) (imm8 := imm8) (i := i)
      (signed := signed)
  refine ⟨BitVec.toNat_add _ _, toNat_add_scaled _ _ _, toNat_add_scaled _ _ _, toNat_addrLit s imm8,
    fun i a hi ha h => ?word, fun i a hi ha h => ?half, fun i a hi h => ?byte, fun ha h => ?signedHalf,
    fun h => ?signedByte⟩
  case word =>
    rw [← stored_four, ← extended_four false (s.stored 4 a)]
    refine hforms ?_ ha h
    simp only [List.mem_cons, Prod.mk.injEq, List.not_mem_nil, or_false] at hi
    obtain ⟨rfl, rfl⟩ | ⟨rfl, rfl⟩ | ⟨rfl, rfl⟩ | ⟨rfl, rfl⟩ := hi <;> simp [loadForms]
  case half =>
    rw [← setWidth_stored_two]
    refine hforms (signed := false) (n := 2) ?_ ha h
    simp only [List.mem_cons, Prod.mk.injEq, List.not_mem_nil, or_false] at hi
    obtain ⟨rfl, rfl⟩ | ⟨rfl, rfl⟩ := hi <;> simp [loadForms]
  case byte =>
    rw [← setWidth_stored_one]
    refine hforms (signed := false) (n := 1) ?_ (Nat.mod_one _) h
    simp only [List.mem_cons, Prod.mk.injEq, List.not_mem_nil, or_false] at hi
    obtain ⟨rfl, rfl⟩ | ⟨rfl, rfl⟩ := hi <;> simp [loadForms]
  case signedHalf =>
    rw [← setWidth_stored_two]
    exact hforms (signed := true) (n := 2) (by simp [loadForms]) ha h
  case signedByte =>
    rw [← setWidth_stored_one]
    exact hforms (signed := true) (n := 1) (by simp [loadForms]) (Nat.mod_one _) h

/-! ### Stores -/

/-- A store writes its value byte by byte, the least significant first (20_memory.md R104). -/
theorem Memory.read_store {m : List Host.Cell} {addr v : Nat} (h : Memory.wf m = true) (hhi : addr + n ≤ 2 ^ 32)
    (hk : k < n) : Memory.read (Memory.store m addr n v) (addr + k) = BitVec.ofNat 8 (v / 256 ^ k) := by
  induction n generalizing m addr v k with
  | zero => omega
  | succ n ih =>
    rw [Memory.store]
    cases k with
    | zero =>
      rw [Memory.read_store_outside (by omega), Nat.add_zero, Memory.read_write_self addr _ h, Nat.pow_zero,
        Nat.div_one]
    | succ k =>
      have hrest := ih (m := Memory.write m addr (BitVec.ofNat 8 v)) (addr := addr + 1) (v := v / 256) (k := k)
        (Memory.wf_write h (by omega)) (by omega) (by omega)
      rw [Nat.add_assoc, Nat.add_comm 1 k, Nat.div_div_eq_div_mul, ← Nat.pow_succ'] at hrest
      exact hrest

theorem byteAt_eq_ofNat (v : Word) (k : Nat) : byteAt v k = BitVec.ofNat 8 (v.toNat / 256 ^ k) := by
  refine BitVec.eq_of_toNat_eq ?_
  rw [byteAt, BitVec.extractLsb'_toNat, Nat.shiftRight_eq_div_pow, BitVec.toNat_ofNat, Nat.pow_mul]

/-- A store to RAM writes its bytes. -/
theorem stores_of_mem (hi : (i, a, n) ∈ storeForms s rt rn rm imm5 imm8) (hs : s.memoryCanonical)
    (hn : a.toNat + n ≤ 2 ^ 32) (ha : a.toNat % n = 0) (h : writable s a) : stores i s n a (s.lo rt) := by
  refine ⟨_, (exec_of_mem_storeForms hi).trans (storeLow_of_ok (memWrite_ram ha h.1 h.2)), rfl, fun k hk => ?_,
    fun b hb => read_store_of_not_within hb⟩
  rw [byteAt_eq_ofNat]
  exact Memory.read_store hs hn hk

/-- Settles O22: the forms of a width are one store. -/
theorem storesWriteLittleEndian : Obligations.StoresWriteLittleEndian := by
  intro s rt rn rm imm5 imm8 hs
  have hforms {i : Instr} {a : Word} {n : Nat} :=
    stores_of_mem (s := s) (a := a) (n := n) (rt := rt) (rn := rn) (rm := rm) (imm5 := imm5) (imm8 := imm8) (i := i)
  refine ⟨fun i a hi ha h => hforms ?word hs (by omega) ha h, fun i a hi ha h => hforms ?half hs (by omega) ha h,
    fun i a hi h => hforms ?byte hs (by omega) (Nat.mod_one _) h⟩
  all_goals simp only [List.mem_cons, Prod.mk.injEq, List.not_mem_nil, or_false] at hi
  case word => obtain ⟨rfl, rfl⟩ | ⟨rfl, rfl⟩ | ⟨rfl, rfl⟩ := hi <;> simp [storeForms]
  case half => obtain ⟨rfl, rfl⟩ | ⟨rfl, rfl⟩ := hi <;> simp [storeForms]
  case byte => obtain ⟨rfl, rfl⟩ | ⟨rfl, rfl⟩ := hi <;> simp [storeForms]

/-! ### Faults -/

theorem memRead_bad (h : a.toNat % n ≠ 0 ∨ unreadable s a) : ∃ c, memRead n a s = .abort c s := by
  by_cases ha : a.toNat % n = 0
  · obtain ⟨hp, hk⟩ := h.resolve_left (not_not.mpr ha)
    exact ⟨.busError, by simp [memRead, ha, hp, hk]⟩
  · exact ⟨.unaligned, if_pos ha⟩

theorem memWrite_bad (h : a.toNat % n ≠ 0 ∨ unwritable s a) : ∃ c, memWrite n a v s = .abort c s := by
  by_cases ha : a.toNat % n = 0
  · obtain ⟨hp, hk | hk⟩ := h.resolve_left (not_not.mpr ha)
    all_goals exact ⟨.busError, by simp [memWrite, ha, hp, hk]⟩
  · exact ⟨.unaligned, if_pos ha⟩

/-- A list that is not empty has a word to transfer. -/
theorem bitCount_pos (h : list ≠ 0) : 0 < bitCount list := by
  obtain ⟨j, hj⟩ : ∃ j, list.getLsbD j = true := by
    by_contra hnone
    exact h (BitVec.eq_of_getLsbD_eq fun j _ => by simpa using fun hj => hnone ⟨j, hj⟩)
  have hlt : j < 8 := BitVec.lt_of_getLsbD hj
  have hplace := listed_getElem?_rank (list := list) (BitVec.ofNat 3 j)
    (by rwa [BitVec.toNat_ofNat, Nat.mod_eq_of_lt (by omega)])
  rw [← length_listed]
  exact Nat.zero_lt_of_lt (List.getElem?_eq_some_iff.mp hplace).1

theorem ldm_unaligned (hlist : list ≠ 0) (hu : s.undisturbed) (ha : (s.lo rn).toNat % 4 ≠ 0) :
    exec (.ldm rn list) s = raiseHardFault .unaligned s := by
  obtain ⟨done, hexec⟩ := exec_ldm (s := s) rn (bitCount_pos hlist)
  obtain ⟨m, hm⟩ := Nat.exists_eq_add_of_lt (bitCount_pos hlist)
  have hread : memRead 4 (s.lo rn) s = .abort .unaligned s := if_pos ha
  rw [hexec, loadTransfer, transfer_undisturbed hu, hm, loadWords, hread]
  rfl

theorem stm_unaligned (hlist : list ≠ 0) (hu : s.undisturbed) (ha : (s.lo rn).toNat % 4 ≠ 0)
    (hbase : baseNotLowest rn list = false) : exec (.stm rn list) s = raiseHardFault .unaligned s := by
  obtain ⟨done, hexec⟩ := exec_stm (s := s) rn (bitCount_pos hlist) hbase
  obtain ⟨w, ws, hws⟩ := List.exists_cons_of_length_pos (l := s.listedValues list)
    (by rw [length_listedValues]; exact bitCount_pos hlist)
  have hwrite : memWrite 4 (s.lo rn) w s = .abort .unaligned s := if_pos ha
  rw [hexec, storeTransfer, transfer_undisturbed hu, hws, List.take_length, storeWords, hwrite]
  rfl

/-- Settles O23: the access, or the first of them, answers a fault and has changed nothing. -/
theorem badAddressesTakeHardFault : Obligations.BadAddressesTakeHardFault := by
  intro s rt rn rm imm5 imm8 list i a n
  refine ⟨fun hlist hu ha => ⟨faults_of_raise (ldm_unaligned hlist hu ha),
    fun hbase => faults_of_raise (stm_unaligned hlist hu ha hbase)⟩, fun signed hi hbad => ?load, fun hi hbad => ?store⟩
  case load =>
    obtain ⟨c, hc⟩ := memRead_bad hbad
    exact faults_of_raise (c := c) (by rw [exec_of_mem_loadForms hi, loadLow, hc]; rfl)
  case store =>
    obtain ⟨c, hc⟩ := memWrite_bad (v := s.lo rt) hbad
    exact faults_of_raise (c := c) (by rw [exec_of_mem_storeForms hi, storeLow, hc]; rfl)

end Sys2Proof.Machine
end

section
/-! PROOF. The multiple transfers that run to their end (41_memory_access.md sections 5 and 6). The idea: undisturbed
they are a run of reads or of writes, the reads give the words of memory at the places of the list, and the listed
registers get, or hold, the words at their ranks. -/

namespace Sys2Proof.Machine

open Sys2Proof.Claims

variable {s t u : State} {a v : Word} {n k : Nat} {rn : LowReg} {list : RegList}

/-! ### Registers filled from memory -/

/-- The listed registers filled with words of memory. -/
def State.filled (s : State) (list : RegList) (a : Word) (n : Nat) : State :=
  s.setListed (listed list) (wordsAt s a n)

theorem filled_eq (s : State) (list : RegList) (a : Word) (n : Nat) :
    s.filled list a n = { s with r := (s.filled list a n).r } := setListed_eq s _ _

theorem lo_filled (hn : bitCount list ≤ n) (i : LowReg) :
    (s.filled list a n).lo i = if list.getLsbD i.toNat then wordAt s (nth a (rank list i)) else s.lo i := by
  split
  case isTrue hi =>
    exact lo_setListed (nodup_listed list) (listed_getElem?_rank i hi)
      (wordsAt_getElem? s a ((rank_lt_bitCount hi).trans_le hn))
  case isFalse hi => exact lo_setListed_of_not_mem (mt mem_listed.mp hi)

theorem sameHigh_filled : sameHigh s (s.filled list a n) := by
  intro m h8 h12
  rw [State.x_of_lt _ _ (by omega), State.x_of_lt _ _ (by omega)]
  exact regs_setListed_high h8

theorem sameHigh_setLo (s : State) (rn : LowReg) (v : Word) : sameHigh s (s.setLo rn v) := by
  intro m h8 h12
  rw [State.x_of_lt _ _ (by omega), State.x_of_lt _ _ (by omega), State.setLo_r, regs_getD_set, if_neg (by omega)]

theorem sameHigh_of_regs (h : t.r = u.r) (hs : sameHigh s u) : sameHigh s t := by
  intro m h8 h12
  rw [← hs m h8 h12, State.x_of_lt _ _ (by omega), State.x_of_lt _ _ (by omega), h]

theorem sameHigh_advance (h : sameHigh s u) (k : Nat) : sameHigh s (u.advance k) :=
  sameHigh_of_regs (State.advance_r u k) h

theorem lo_of_regs (h : t.r = u.r) (i : LowReg) : t.lo i = u.lo i := by rw [State.lo, State.lo, h]

/-! ### LDM -/

theorem exec_ldm_undisturbed (hlist : list ≠ 0) (hu : s.undisturbed) (ha : (s.lo rn).toNat % 4 = 0)
    (hr : ∀ k < bitCount list, readable s (nth (s.lo rn) k)) :
    exec (.ldm rn list) s = .next ((if list.getLsbD rn.toNat then s.filled list (s.lo rn) (bitCount list)
      else (s.filled list (s.lo rn) (bitCount list)).setLo rn (nth (s.lo rn) (bitCount list))).advance 2) := by
  change execLdm rn list s = _
  rw [execLdm, if_neg hlist, loadTransfer, transfer_undisturbed hu, length_listed, loadWords_eq ha hr]
  rfl

/-- Settles O25: the reads give the words of memory, and each register is filled or kept. -/
theorem loadMultipleFillsTheList : Obligations.LoadMultipleFillsTheList := by
  intro s rn list hlist hu ha hr
  have hlo := lo_filled (s := s) (a := s.lo rn) (list := list) le_rfl
  have hhigh := sameHigh_filled (s := s) (a := s.lo rn) (list := list) (n := bitCount list)
  refine ⟨_, exec_ldm_undisturbed hlist hu ha hr, ?_⟩
  generalize hf : s.filled list (s.lo rn) (bitCount list) = u at *
  have hframe : u = { s with r := u.r } := by rw [← hf, ← filled_eq]
  by_cases hbase : list.getLsbD rn.toNat = true
  · rw [if_pos hbase]
    refine ⟨by rw [hframe]; rfl, sameHigh_advance hhigh 2, fun i => ?_⟩
    rw [State.lo_advance, hlo]
    split
    · rfl
    · rw [if_neg (by rintro rfl; contradiction)]
  · rw [if_neg hbase]
    refine ⟨by rw [hframe]; rfl, ?_, fun i => ?_⟩
    · exact sameHigh_advance (fun m h8 h12 => (sameHigh_setLo u rn _ m h8 h12).trans (hhigh m h8 h12)) 2
    · rw [State.lo_advance, State.lo_setLo, hlo]
      by_cases hi : i = rn
      · rw [if_pos hi, if_pos hi, hi, if_neg hbase]
      · rw [if_neg hi, if_neg hi]

/-! ### STM -/

theorem exec_stm_refused (hlist : list ≠ 0) (hbase : baseNotLowest rn list = true) :
    exec (.stm rn list) s = .refused .stmBaseNotLowest := (if_neg hlist).trans (if_pos hbase)

theorem exec_stm_undisturbed (hlist : list ≠ 0) (hbase : baseNotLowest rn list = false) (hu : s.undisturbed)
    (hmem : storeWords (s.listedValues list) (s.lo rn) s = .ok () u) :
    exec (.stm rn list) s = .next ((u.setLo rn (nth (s.lo rn) (bitCount list))).advance 2) := by
  change execStm rn list s = _
  rw [execStm, if_neg hlist, hbase, if_neg Bool.false_ne_true, storeTransfer, transfer_undisturbed hu, List.take_length,
    hmem, length_listed]
  rfl

/-- Settles O26: the run of writes stores the listed registers, and only the base is written. -/
theorem storeMultipleStoresTheList : Obligations.StoreMultipleStoresTheList := by
  refine fun s rn list hlist => ⟨exec_stm_refused hlist, fun hbase hu hs ha hw => ?_⟩
  have hlen := length_listedValues s list
  have hcount := bitCount_le list
  obtain ⟨u, hrun, hst⟩ := storeWords_writable (ws := s.listedValues list) hs ha (by omega) (by rwa [hlen])
  obtain ⟨hframe, -, hword, hout⟩ := hst
  have hregs : u.r = s.r := by rw [hframe]
  refine ⟨_, exec_stm_undisturbed hlist hbase hu hrun, by rw [hframe]; rfl, ?_, fun i hi => ?_, ?_, fun i => ?_⟩
  · exact sameHigh_advance (sameHigh_of_regs (by rw [State.setLo_r, State.setLo_r, hregs]) (sameHigh_setLo s rn _)) 2
  · exact hword _ _ (holdsListed_listedValues s list i hi)
  · rwa [hlen] at hout
  · rw [State.lo_advance, State.lo_setLo, lo_of_regs hregs]

/-! ### PUSH -/

theorem exec_push_undisturbed {m : Bool} (hlist : m = true ∨ list ≠ 0) (hu : s.undisturbed)
    (hmem : storeWords (s.pushWords m list) (s.pushBase m list) s = .ok () u) :
    exec (.push m list) s = .next ((u.setSp (s.pushBase m list)).advance 2) := by
  change execPush m list s = _
  rw [execPush, if_neg (by rintro ⟨rfl, rfl⟩; simp at hlist), storeTransfer, transfer_undisturbed hu, List.take_length,
    hmem]
  rfl

/-- With M the last word stored is LR. -/
theorem pushWords_last (s : State) (list : RegList) : (s.pushWords true list)[bitCount list]? = some s.lr := by
  rw [State.pushWords, List.getElem?_append_right (by simp), length_listedValues, Nat.sub_self]
  rfl

/-- Settles O27: the run of writes stores the words, and only the stack pointer in use is written. -/
theorem pushStoresBelowTheStack : Obligations.PushStoresBelowTheStack := by
  intro s m list hlist hu hs hsp n base hw
  have hlen := length_pushWords s m list
  have hcount := bitCount_le list
  have hm := Bool.toNat_le m
  have ha := pushBase_aligned hsp m list
  obtain ⟨u, hrun, hst⟩ := storeWords_writable (ws := s.pushWords m list) hs ha (by omega) (by rwa [hlen])
  obtain ⟨hframe, -, hword, hout⟩ := hst
  have huse : u.usesPsp = s.usesPsp := by rw [hframe]; rfl
  refine ⟨_, exec_push_undisturbed hlist hu hrun, ?_, ?_, fun i hi => ?_, ?_, ?_⟩
  · exact congrArg (fun k => s.sp - byteCount k) hlen
  · rw [State.setSp, huse, wordAligned_of_mod ha, hframe]
    rfl
  · exact hword _ _ (holdsListed_pushWords s m list i hi)
  · rintro rfl
    exact hword _ _ (pushWords_last s list)
  · rwa [hlen] at hout

/-! ### POP -/

theorem exec_pop_no_pc (hlist : list ≠ 0) (hu : s.undisturbed) (hsp : s.stacksAligned)
    (hr : ∀ k < bitCount list, readable s (nth s.sp k)) :
    exec (.pop false list) s =
      .next (((s.filled list s.sp (bitCount list)).setSp (nth s.sp (bitCount list))).advance 2) := by
  change execPop false list s = _
  rw [execPop, if_neg (fun h => hlist h.2), loadTransfer, transfer_undisturbed hu, popCount_eq, Bool.toNat_false,
    Nat.add_zero, loadWords_eq hsp.sp hr]
  rfl

/-- The state after the registers and the stack pointer are written. -/
theorem setSp_filled (hsp : s.stacksAligned) (n : Nat) :
    (s.filled list s.sp n).setSp (nth s.sp n) =
      { s with r := (s.filled list s.sp n).r, msp := if s.usesPsp then s.msp else nth s.sp n,
               psp := if s.usesPsp then nth s.sp n else s.psp } := by
  have huse : (s.filled list s.sp n).usesPsp = s.usesPsp := by rw [filled_eq]; rfl
  rw [State.setSp, huse, wordAligned_of_mod (nth_aligned hsp.sp n), filled_eq]

theorem popped_filled (hn : bitCount list ≤ n) (h : t.r = (s.filled list s.sp n).r) : popped s t list :=
  ⟨sameHigh_of_regs h sameHigh_filled, fun i => (lo_of_regs h i).trans (lo_filled hn i)⟩

/-- Settles O28: the reads give the words of memory, and with PC the last is branched to. -/
theorem popLoadsFromTheStack : Obligations.PopLoadsFromTheStack := by
  intro s p list hlist hu hsp n target hr hbranch
  cases p with
  | false =>
    have hexec := exec_pop_no_pc (hlist.resolve_left Bool.false_ne_true) hu hsp hr
    rw [setSp_filled hsp] at hexec
    exact ⟨_, hexec, rfl, popped_filled le_rfl rfl⟩
  | true =>
    have hexec := exec_pop_pc hu hsp hr
    rw [← State.filled, setSp_filled hsp, bxWritePc_of_branch (by exact hbranch rfl), interwork_eq] at hexec
    exact ⟨_, hexec, rfl, popped_filled (Nat.le_succ _) rfl⟩

end Sys2Proof.Machine
end

section
/-! PROOF. Fetching and running an instruction, or the fault in its place (30_encoding.md R141). The idea: the two
halfwords that are asked for are the bytes at the PC, so that fetching is decoding those bytes; and the agents before
the processor leave the PC, the memory and the platform as they were. -/

namespace Sys2Proof.Machine

open Sys2Proof.Claims

variable {s t : State} {a : Word} {i : Instr} {rest : List Byte}

/-- Code may be fetched from the address. -/
def Fetchable (s : State) (a : Word) : Prop := executeNever a = false ∧ readable s a

/-- Code is not to be fetched from the address, or nothing answers there. -/
def Unfetchable (s : State) (a : Word) : Prop := executeNever a = true ∨ unreadable s a

theorem fetchHalf_of_fetchable (ha : a.toNat % 2 = 0) (h : Fetchable s a) : fetchHalf a s = .ok (halfAt s a) s := by
  obtain ⟨hexec, hread⟩ := h
  rw [fetchHalf, if_neg (ne_true_of_eq_false hexec), memRead_of_readable ha hread, ← setWidth_stored_two]
  rfl

theorem fetchHalf_of_unfetchable (ha : a.toNat % 2 = 0) (h : Unfetchable s a) : ∃ c, fetchHalf a s = .abort c s := by
  by_cases hexec : executeNever a = true
  · exact ⟨.executeNever, if_pos hexec⟩
  · obtain ⟨hp, hk⟩ := h.resolve_left hexec
    have hread : memRead 2 a s = .abort .busError s := by simp [memRead, ha, hp, hk]
    exact ⟨.fetchBusError, by rw [fetchHalf, if_neg hexec, hread]; rfl⟩

/-- Below the execute-never regions the next halfword is not at the other end of the address space. -/
theorem toNat_add_two_of_fetchable (h : executeNever a = false) : (a + 2).toNat = a.toNat + 2 := by
  have hlt : a.toNat < 0xA0000000 := by
    by_contra hge
    simp [executeNever, not_lt.mp hge] at h
  rw [BitVec.toNat_add]
  exact Nat.mod_eq_of_lt (show a.toNat + 2 < 2 ^ 32 by omega)

/-! ### The bytes at the PC -/

theorem codeAt_eq_halves (h : executeNever s.pc = false) :
    ∃ b0 b1 b2 b3, codeAt s = [b0, b1, b2, b3] ∧ halfAt s s.pc = halfOfBytes b0 b1 ∧
      halfAt s (s.pc + 2) = halfOfBytes b2 b3 := by
  refine ⟨_, _, _, _, rfl, rfl, ?_⟩
  rw [halfAt, toNat_add_two_of_fetchable h]
  rfl

/-- A 16-bit instruction is decoded from its halfword. -/
theorem decode_codeAt_narrow (h : executeNever s.pc = false) (hw : isWide (halfAt s s.pc).toNat = false) :
    ∃ more, more ≠ [] ∧ decode (codeAt s) = (decodeHalves (halfAt s s.pc) 0).map fun i => (i, more) := by
  obtain ⟨b0, b1, b2, b3, hcode, hhalf, -⟩ := codeAt_eq_halves h
  rw [hhalf] at hw ⊢
  exact ⟨[b2, b3], List.cons_ne_nil _ _, by rw [hcode, decode_narrow hw]⟩

/-- A 32-bit instruction is decoded from both its halfwords. -/
theorem decode_codeAt_wide (h : executeNever s.pc = false) (hw : isWide (halfAt s s.pc).toNat = true) :
    decode (codeAt s) = (decodeHalves (halfAt s s.pc) (halfAt s (s.pc + 2))).map fun i => (i, []) := by
  obtain ⟨b0, b1, b2, b3, hcode, hhalf, hhalf2⟩ := codeAt_eq_halves h
  rw [hhalf] at hw ⊢
  rw [hcode, decode_wide hw, hhalf2]

/-! ### Fetch -/

theorem fetch_narrow (hthumb : s.thumb = true) (hpc : s.pcAligned) (h : Fetchable s s.pc)
    (hw : isWide (halfAt s s.pc).toNat = false) : fetch s = fetch.decoded (decodeHalves (halfAt s s.pc) 0) s := by
  rw [fetch, if_pos hthumb, fetchHalf_of_fetchable hpc h, Access.ok_bind, if_neg (ne_true_of_eq_false hw)]

theorem fetch_wide (hthumb : s.thumb = true) (hpc : s.pcAligned) (h : Fetchable s s.pc)
    (hw : isWide (halfAt s s.pc).toNat = true) :
    fetch s = (fetchHalf (s.pc + 2) s).bind fun hw2 t => fetch.decoded (decodeHalves (halfAt s s.pc) hw2) t := by
  rw [fetch, if_pos hthumb, fetchHalf_of_fetchable hpc h, Access.ok_bind, if_pos hw]

theorem add_two_aligned (h : s.pcAligned) : (s.pc + 2).toNat % 2 = 0 := by
  have htwo : (2 : Word).toNat = 2 := rfl
  rw [BitVec.toNat_add, htwo]
  omega

/-- What fetching bytes answers when all of the instruction can be fetched. -/
theorem fetch_eq_decode (hthumb : s.thumb = true) (hpc : s.pcAligned) (h : Fetchable s s.pc)
    (h2 : isWide (halfAt s s.pc).toNat = true → Fetchable s (s.pc + 2)) :
    ∃ (d : Except DecodeError Instr) (more : List Byte), fetch s = fetch.decoded d s ∧
      decode (codeAt s) = d.map fun i => (i, more) := by
  cases hw : isWide (halfAt s s.pc).toNat with
  | false =>
    obtain ⟨more, -, hdecode⟩ := decode_codeAt_narrow h.1 hw
    exact ⟨_, more, fetch_narrow hthumb hpc h hw, hdecode⟩
  | true =>
    refine ⟨_, [], ?_, decode_codeAt_wide h.1 hw⟩
    rw [fetch_wide hthumb hpc h hw, fetchHalf_of_fetchable (add_two_aligned hpc) (h2 hw), Access.ok_bind]

theorem fetch_of_decode_ok (hthumb : s.thumb = true) (hpc : s.pcAligned) (h : Fetchable s s.pc)
    (hdecode : decode (codeAt s) = .ok (i, rest)) (h2 : rest = [] → Fetchable s (s.pc + 2)) : fetch s = .ok i s := by
  have hnext : isWide (halfAt s s.pc).toNat = true → Fetchable s (s.pc + 2) := fun hw => h2 <| by
    rw [decode_codeAt_wide h.1 hw] at hdecode
    obtain ⟨j, -, heq⟩ := map_eq_ok hdecode
    cases heq
    rfl
  obtain ⟨d, more, hfetch, hd⟩ := fetch_eq_decode hthumb hpc h hnext
  obtain ⟨j, rfl, heq⟩ := map_eq_ok (hd.symm.trans hdecode)
  cases heq
  exact hfetch

theorem fetch_of_decode_error {e : DecodeError} (hthumb : s.thumb = true) (hpc : s.pcAligned) (h : Fetchable s s.pc)
    (h2 : isWide (halfAt s s.pc).toNat = true → Fetchable s (s.pc + 2)) (hdecode : decode (codeAt s) = .error e) :
    fetch s = .abort .undefinedInstruction s := by
  obtain ⟨d, more, hfetch, hd⟩ := fetch_eq_decode hthumb hpc h h2
  rw [hfetch]
  cases d with
  | ok j => cases hd.symm.trans hdecode
  | error e => rfl

/-! ### The agents before the processor -/

theorem agents_sameStore (s : State) : SameStore s s.nextEnv.agents := by
  have hnext : SameStore s s.nextEnv := by
    rw [nextEnv_eq]
    exact ⟨rfl, rfl⟩
  exact hnext.trans (agents_sameCore _).2

theorem agents_thumb (s : State) : s.nextEnv.agents.thumb = s.thumb := by
  rw [(agents_sameCore (s := s.nextEnv)).1.thumb, nextEnv_eq]

theorem halfAt_of_mem (h : t.mem = s.mem) (a : Word) : halfAt t a = halfAt s a := by rw [halfAt, halfAt, h]

theorem codeAt_of_mem (h : t.mem = s.mem) (hpc : t.pc = s.pc) : codeAt t = codeAt s := by
  simp only [codeAt, h, hpc]

theorem SameStore.fetchable (h : SameStore s t) (hf : Fetchable s a) : Fetchable t a :=
  ⟨hf.1, (readable_congr h).mpr hf.2⟩

theorem SameStore.unfetchable (h : SameStore s t) (hf : Unfetchable s a) : Unfetchable t a :=
  hf.imp_right fun hu => ⟨hu.1, (h.kindAt a).trans hu.2⟩

/-- A processor that runs fetches its next instruction and runs it. -/
theorem step_of_runs (h : runs s) : step s = (fetch s.nextEnv.agents).finish exec := by
  obtain ⟨hreset, hrun, hnone⟩ := h
  have hrun' : s.nextEnv.agents.run = .running := (agents_run_pc s).1.trans hrun
  rw [step_eq_act hreset (by rw [hrun]; exact RunState.noConfusion)]
  simp only [act, hrun', hnone]
  rfl

/-- Settles O5: the bytes at the PC are the same once the agents have acted, and fetching decodes them. -/
theorem stepRunsTheDecodedInstruction : Obligations.StepRunsTheDecodedInstruction := by
  intro s i rest hruns hthumb hpc hexec hread hdecode h2
  obtain ⟨-, hpc'⟩ := agents_run_pc s
  have hstore := agents_sameStore s
  have hfetch : fetch s.nextEnv.agents = .ok i s.nextEnv.agents := by
    refine fetch_of_decode_ok (rest := rest) (by rw [agents_thumb, hthumb]) (by rwa [State.pcAligned, hpc']) ?_ ?_ ?_
    · rw [hpc']
      exact hstore.fetchable ⟨hexec, hread⟩
    · rw [codeAt_of_mem hstore.mem hpc', hdecode]
    · rw [hpc']
      exact fun hrest => hstore.fetchable (h2 hrest)
  rw [step_of_runs hruns, hfetch]
  rfl

/-! ### A fetch that faults -/

/-- Why no instruction is run at the PC. -/
inductive NoInstruction (s : State) : Prop
  | notThumb (h : s.thumb = false)
  | first (hthumb : s.thumb = true) (h : Unfetchable s s.pc)
  | second (hthumb : s.thumb = true) (h : Fetchable s s.pc) (hw : isWide (halfAt s s.pc).toNat = true)
      (h2 : Unfetchable s (s.pc + 2))
  | undefined (hthumb : s.thumb = true) (h : Fetchable s s.pc)
      (h2 : isWide (halfAt s s.pc).toNat = true → Fetchable s (s.pc + 2))
      (hdecode : decode (codeAt s) = .error .undefined)

theorem fetch_of_noInstruction (hpc : s.pcAligned) (h : NoInstruction s) : ∃ c, fetch s = .abort c s := by
  cases h with
  | notThumb h => exact ⟨.notThumb, if_neg (ne_true_of_eq_false h)⟩
  | first hthumb h =>
    obtain ⟨c, hc⟩ := fetchHalf_of_unfetchable hpc h
    exact ⟨c, by rw [fetch, if_pos hthumb, hc, Access.abort_bind]⟩
  | second hthumb h hw h2 =>
    obtain ⟨c, hc⟩ := fetchHalf_of_unfetchable (add_two_aligned hpc) h2
    exact ⟨c, by rw [fetch_wide hthumb hpc h hw, hc, Access.abort_bind]⟩
  | undefined hthumb h h2 hdecode => exact ⟨_, fetch_of_decode_error hthumb hpc h h2 hdecode⟩

/-- The reason depends only on T, the PC, the memory and the platform. -/
theorem NoInstruction.congr (h : NoInstruction s) (hthumb : t.thumb = s.thumb) (hpc : t.pc = s.pc)
    (hs : SameStore s t) : NoInstruction t := by
  have hhalf := halfAt_of_mem hs.mem
  cases h with
  | notThumb h => exact .notThumb (hthumb.trans h)
  | first ht h => exact .first (hthumb.trans ht) (by rw [hpc]; exact hs.unfetchable h)
  | second ht h hw h2 =>
    exact .second (hthumb.trans ht) (by rw [hpc]; exact hs.fetchable h) (by rwa [hpc, hhalf])
      (by rw [hpc]; exact hs.unfetchable h2)
  | undefined ht h h2 hdecode =>
    exact .undefined (hthumb.trans ht) (by rw [hpc]; exact hs.fetchable h)
      (by rw [hpc, hhalf]; exact fun hw => hs.fetchable (h2 hw)) (by rw [codeAt_of_mem hs.mem hpc, hdecode])

/-- Settles O6: fetching answers a fault, and HardFault is taken from the state the agents leave. -/
theorem fetchFaultsTakeHardFault : Obligations.FetchFaultsTakeHardFault := by
  intro s hruns hprio henter hpc unfetchable fetchable hwhy
  have hno : NoInstruction s := by
    obtain h | ⟨ht, h⟩ | ⟨ht, h, hw, h2⟩ | ⟨ht, h, h2, hdecode⟩ := hwhy
    · exact .notThumb h
    · exact .first ht h
    · exact .second ht h hw h2
    · exact .undefined ht h h2 hdecode
  obtain ⟨-, hpc'⟩ := agents_run_pc s
  obtain ⟨c, hc⟩ := fetch_of_noInstruction (s := s.nextEnv.agents) (by rwa [State.pcAligned, hpc'])
    (hno.congr (agents_thumb s) hpc' (agents_sameStore s))
  obtain ⟨t, ht, hent⟩ := raiseHardFault_entered c hprio henter
  rw [hpc'] at hent
  exact ⟨t, by rw [step_of_runs hruns, hc]; exact ht, hent⟩

end Sys2Proof.Machine
end

section
/-! PROOF. Exception entry and the return from it (60_exceptions.md sections 4 and 5). The idea: entry says which word
stands where in the frame, return which word goes where from it; what is left is that the EXC_RETURN value describes the
mode that was interrupted, that the frame holds the PSR field by field, and that the stack pointer comes back past the
frame and the word that aligned it. -/

namespace Sys2Proof.Machine

open Sys2Proof.Claims

variable {s t u : State} {n : Nat} {ra addr : Word}

/-! ### The stack pointer -/

/-- Clearing bit 2 takes its value away. -/
theorem and_not_four_add (x : Word) : (x &&& 0xFFFFFFFB#32) + (x &&& 4#32) = x := by
  have hdisjoint : (x &&& 0xFFFFFFFB#32) &&& (x &&& 4#32) = 0#32 := by
    ext i hi
    interval_cases i <;> simp
  rw [BitVec.add_eq_or_of_and_eq_zero _ _ hdisjoint, ← BitVec.and_or_distrib_left]
  exact BitVec.and_allOnes

theorem and_not_four_or (x : Word) : (x &&& 0xFFFFFFFB#32) ||| (x &&& 4#32) = x := by
  rw [← BitVec.and_or_distrib_left]
  exact BitVec.and_allOnes

theorem and_four (x : Word) : x &&& 4#32 = if x.getLsbD 2 then 4#32 else 0#32 := by
  ext i hi
  cases h : x.getLsbD 2 <;> interval_cases i <;> simp_all [BitVec.getLsbD_eq_getElem]

theorem and_four_sub (x : Word) : (x - 32#32) &&& 4#32 = x &&& 4#32 := by
  have hbit : (x - 32#32).getLsbD 2 = x.getLsbD 2 := by
    rw [← BitVec.testBit_toNat, ← BitVec.testBit_toNat, Nat.testBit_eq_decide_div_mod_eq,
      Nat.testBit_eq_decide_div_mod_eq, BitVec.toNat_sub]
    simp only [BitVec.toNat_ofNat, decide_eq_decide]
    omega
  rw [and_four, and_four, hbit]

/-- The end of the frame, with the word that aligned it, is where the stack pointer was (60_exceptions.md R412,
R417). -/
theorem frame_end (x : Word) :
    (((x - 32#32) &&& 0xFFFFFFFB#32) + 32#32) ||| (if x.getLsbD 2 then 4#32 else 0#32) = x := by
  have hbelow := and_not_four_add (x - 32#32)
  have hhere := and_not_four_add x
  rw [and_four_sub] at hbelow
  have hend : ((x - 32#32) &&& 0xFFFFFFFB#32) + 32#32 = x &&& 0xFFFFFFFB#32 := by
    rw [eq_sub_of_add_eq hbelow, eq_sub_of_add_eq hhere]
    ring
  rw [← and_four, hend, and_not_four_or]

/-! ### The stacked PSR -/

/-- A bit of the PSR word, the widths of its fields written out. -/
theorem getLsbD_stackedPsr (s : State) (align : Bool) (i : Nat) :
    (s.stackedPsr align).getLsbD i = (s.flags.bits ++ 0#3 ++ BitVec.ofBool s.thumb ++ 0#14 ++ BitVec.ofBool align ++
      0#3 ++ s.ipsr : BitVec (4 + 3 + 1 + 14 + 1 + 3 + 6)).getLsbD i := rfl

/-- The PSR word holds the flags, T, the alignment flag and the exception number (60_exceptions.md R413). -/
theorem stackedPsr_fields (s : State) (align : Bool) :
    (s.stackedPsr align).getLsbD 31 = s.flags.n ∧ (s.stackedPsr align).getLsbD 30 = s.flags.z ∧
    (s.stackedPsr align).getLsbD 29 = s.flags.c ∧ (s.stackedPsr align).getLsbD 28 = s.flags.v ∧
    (s.stackedPsr align).getLsbD 24 = s.thumb ∧ (s.stackedPsr align).getLsbD 9 = align ∧
    (s.stackedPsr align).setWidth 6 = s.ipsr := by
  refine ⟨?_, ?_, ?_, ?_, ?_, ?_, BitVec.eq_of_getLsbD_eq fun i hi => ?_⟩
  case refine_7 =>
    rw [BitVec.getLsbD_setWidth, decide_eq_true hi, Bool.true_and, getLsbD_stackedPsr, BitVec.getLsbD_append, if_pos hi]
  all_goals
    rw [getLsbD_stackedPsr]
    simp only [Flags.bits, BitVec.getLsbD_append]
    simp

/-! ### The EXC_RETURN value -/

theorem excReturn_of_handler (h : s.ipsr ≠ 0) : s.excReturn = 0xFFFFFFF1#32 := if_pos h

theorem excReturn_of_thread (h : s.ipsr = 0) :
    s.excReturn = if s.spsel then 0xFFFFFFFD#32 else 0xFFFFFFF9#32 := if_neg (not_not.mpr h)

theorem excReturn_toThread (s : State) : s.excReturn ≠ 0xFFFFFFF1#32 ↔ s.ipsr = 0 := by
  by_cases h : s.ipsr = 0
  · rw [excReturn_of_thread h]
    cases s.spsel <;> exact iff_of_true (by decide) h
  · rw [excReturn_of_handler h]
    exact iff_of_false (not_not.mpr rfl) h

theorem excReturn_usePsp (s : State) : s.excReturn = 0xFFFFFFFD#32 ↔ s.ipsr = 0 ∧ s.spsel = true := by
  by_cases h : s.ipsr = 0
  · rw [excReturn_of_thread h, and_iff_right h]
    cases s.spsel <;> decide
  · rw [excReturn_of_handler h]
    exact iff_of_false (by decide) fun hboth => h hboth.1

theorem excReturn_known (s : State) : KnownReturn s.excReturn := by
  rw [State.excReturn, KnownReturn]
  split
  · exact .inl rfl
  · split
    · exact .inr (.inr rfl)
    · exact .inr (.inl rfl)

theorem KnownReturn.high (h : KnownReturn addr) : 0xF0000000 ≤ addr.toNat := by
  obtain rfl | rfl | rfl := h <;> decide

/-! ### The active exceptions -/

/-- Leaving an exception that was not active before it was entered. -/
theorem clearBit_setBit_of_false {b : BitVec 48} (h : b.getLsbD n = false) : clearBit (setBit b n) n = b := by
  refine BitVec.eq_of_getLsbD_eq fun i hi => ?_
  rw [clearBit_setBit, getLsbD_clearBit b hi]
  by_cases hin : n = i
  · rw [← hin, h, Bool.false_and]
  · rw [decide_eq_false hin, Bool.not_false, Bool.and_true]

/-- A legal active exception is one of those this chip has. -/
theorem mem_exceptionNumbers_of_active (hlegal : s.exceptionsLegal) (h : s.nvic.active.getLsbD n = true) :
    n ∈ exceptionNumbers := by
  have hn : n < 48 := BitVec.lt_of_getLsbD h
  have hall : ∀ i < 48, legalExceptions.getLsbD i = true → i ∈ exceptionNumbers := by decide
  exact hall n hn (legal_iff.mp hlegal.2 n hn h)

theorem alive_of_running (h : s.run = .running) : s.alive := by
  rw [State.alive, h]
  exact ⟨RunState.noConfusion, RunState.noConfusion⟩

/-- In a live processor an exception is active exactly in Handler mode. -/
theorem active_eq_zero_iff (hinv : s.Inv) (hrun : s.run = .running) : s.nvic.active = 0 ↔ s.ipsr = 0 := by
  obtain ⟨hthread, hactive⟩ | ⟨hhandler, hactive⟩ := hinv.mode (alive_of_running hrun)
  · exact ⟨fun _ => hthread, fun _ => hactive⟩
  · refine ⟨fun h => ?_, fun h => absurd h hhandler⟩
    rw [h] at hactive
    exact absurd hactive (by simp)

/-! ### What entry leaves for the return -/

/-- The exception was taken from s, a state that keeps the invariant and in which it was not active. -/
structure Entry (n : Nat) (ra : Word) (s t : State) : Prop where
  inv : s.Inv
  running : s.run = .running
  enter : canEnter n s
  inactive : s.nvic.active.getLsbD n = false
  entered : entered n ra s t

namespace Entry

variable (h : Entry n ra s t)

include h

theorem number_mem : n ∈ exceptionNumbers := by
  obtain ⟨-, -, -, hn, -⟩ := h.enter
  exact hn

theorem ipsr_ne_zero : t.ipsr ≠ 0 := by
  obtain ⟨-, -, -, -, -, -, -, -, -, -, -, hipsr, -⟩ := h.entered
  rw [hipsr]
  exact (toNat_ofNat_of_mem h.number_mem).2

theorem returnsBy_bx : returnsBy (.bx 14 sbBranch) t s.excReturn t := by
  obtain ⟨-, -, -, -, -, -, -, -, -, -, -, -, -, hlr, -⟩ := h.entered
  exact ⟨h.ipsr_ne_zero, (excReturn_known s).high, .inl ⟨14, rfl, by decide, by decide, hlr, rfl⟩⟩

/-- Once the handler has ended, the active exceptions are those of before. -/
theorem active_deactivated : t.deactivateCurrent.nvic.active = s.nvic.active := by
  obtain ⟨-, -, -, -, -, -, -, -, -, -, -, hipsr, -, -, -, -, -, hnvic, -⟩ := h.entered
  change clearBit t.nvic.active t.ipsr.toNat = _
  rw [hnvic, hipsr, (toNat_ofNat_of_mem h.number_mem).1]
  exact clearBit_setBit_of_false h.inactive

theorem returnAgrees : returnAgrees t s.excReturn := by
  have hothers : t.othersActive = true ↔ s.ipsr ≠ 0 := by
    rw [ne_eq, ← active_eq_zero_iff h.inv h.running, ← h.active_deactivated, State.othersActive, bne_iff_ne]
    rfl
  by_cases hmode : s.ipsr = 0
  · refine .inr ⟨?_, Bool.eq_false_iff.mpr fun ho => hothers.mp ho hmode⟩
    exact (excReturn_known s).resolve_left ((excReturn_toThread s).mpr hmode)
  · exact .inl ⟨not_not.mp (mt (excReturn_toThread s).mp hmode), hothers.mpr hmode⟩

/-- The frame that the EXC_RETURN value names is the one that was stacked. -/
theorem frameOf_eq : frameOf t s.excReturn = s.framePointer := by
  obtain ⟨hmsp, hpsp, -⟩ := h.entered
  rw [frameOf, hmsp, hpsp]
  by_cases hpsp : s.ipsr = 0 ∧ s.spsel = true
  · rw [if_pos ((excReturn_usePsp s).mpr hpsp), if_pos hpsp]
    rfl
  · rw [if_neg (mt (excReturn_usePsp s).mp hpsp), if_neg hpsp]
    rfl

theorem stacksAligned : t.stacksAligned := by
  obtain ⟨hmsp, hpsp, -⟩ := h.entered
  have hfp := framePointer_aligned h.inv.stackPointers
  rw [State.stacksAligned, hmsp, hpsp]
  split
  · exact ⟨h.inv.stackPointers.1, hfp⟩
  · exact ⟨hfp, h.inv.stackPointers.2⟩

theorem frame_readable (k : Nat) (hk : k < 8) : readable t (nth (frameOf t s.excReturn) k) := by
  obtain ⟨-, -, -, -, -, -, -, -, -, -, -, -, -, -, -, -, -, -, -, -, -, -, -, -, hplatform, -⟩ := h.entered
  obtain ⟨-, -, -, -, hframe, -⟩ := h.enter
  obtain ⟨hp, hram⟩ := hframe k hk
  rw [h.frameOf_eq]
  refine ⟨hp, .inl ?_⟩
  rw [State.kindAt, hplatform]
  exact hram

/-- The stacked exception number is the one of the mode that was interrupted. -/
theorem frameFits : FrameFits t.deactivateCurrent (decide (s.excReturn ≠ 0xFFFFFFF1#32)) s.ipsr := by
  obtain ⟨hthread, -⟩ | ⟨hhandler, hactive⟩ := h.inv.mode (alive_of_running h.running)
  · exact .inl ⟨decide_eq_true ((excReturn_toThread s).mpr hthread), hthread⟩
  · exact .inr ⟨decide_eq_false (mt (excReturn_toThread s).mp hhandler),
      mem_exceptionNumbers_of_active h.inv.exceptions hactive, by rwa [h.active_deactivated]⟩

/-- The words of the frame that the EXC_RETURN value names (60_exceptions.md R413). -/
theorem frame_word (k : Nat) (v : Word) (hk : (s.frameWords ra)[k]? = some v) :
    wordAt t (nth (frameOf t s.excReturn) k) = v := by
  obtain ⟨-, -, h0, h1, h2, h3, h4, h5, h6, h7, -⟩ := h.entered
  rw [h.frameOf_eq]
  obtain ⟨hlt, rfl⟩ := List.getElem?_eq_some_iff.mp hk
  have hk8 : k < 8 := hlt
  interval_cases k
  · exact h0
  · exact h1
  · exact h2
  · exact h3
  · exact h4
  · exact h5
  · exact h6
  · exact h7

/-- The stack pointer that is returned to comes back to where it was, and the other one has not moved. -/
theorem stackPointers_restored :
    let sp := (frameOf t s.excReturn + 32) ||| (if s.sp.getLsbD 2 then 4#32 else 0#32)
    (if decide (s.excReturn = 0xFFFFFFFD#32) then t.msp else sp) = s.msp ∧
    (if decide (s.excReturn = 0xFFFFFFFD#32) then sp else t.psp) = s.psp := by
  obtain ⟨hmsp, hpsp, -⟩ := h.entered
  intro sp
  have hsp : sp = s.sp := by
    change (frameOf t s.excReturn + 32) ||| _ = _
    rw [h.frameOf_eq]
    exact frame_end s.sp
  rw [hsp, hmsp, hpsp]
  by_cases huse : s.ipsr = 0 ∧ s.spsel = true
  · rw [decide_eq_true ((excReturn_usePsp s).mpr huse), if_pos huse, if_pos huse, State.sp,
      if_pos ((usesPsp_iff s).mpr huse)]
    exact ⟨rfl, rfl⟩
  · rw [decide_eq_false (mt (excReturn_usePsp s).mp huse), if_neg huse, if_neg huse, State.sp,
      if_neg (mt (usesPsp_iff s).mp huse)]
    exact ⟨rfl, rfl⟩

/-- The stack selection: PSP is selected in Thread mode only. -/
theorem spsel_restored : decide (s.excReturn = 0xFFFFFFFD#32) = s.spsel := by
  rw [Bool.eq_iff_iff, decide_eq_true_iff, excReturn_usePsp]
  exact ⟨And.right, fun hspsel => ⟨h.inv.spsel hspsel, hspsel⟩⟩

end Entry

/-- Registers that read the same are the same. -/
theorem regs_eq_of_x (h : ∀ m : Reg, m.toNat < 13 → u.x m = s.x m) : u.r = s.r := by
  refine regs_ext fun j hj => ?_
  have hnum : (BitVec.ofNat 4 j).toNat = j := Nat.mod_eq_of_lt (by omega)
  have hx := h (BitVec.ofNat 4 j) (by omega)
  rwa [State.x_of_lt _ _ (by omega), State.x_of_lt _ _ (by omega), hnum] at hx

/-- The registers of a frame and the others make up the register file. -/
theorem reg_cases : ∀ m : Reg, m.toNat < 13 →
    m = 0 ∨ m = 1 ∨ m = 2 ∨ m = 3 ∨ m = 12 ∨ (4 ≤ m.toNat ∧ m.toNat ≤ 11) := by decide

/-- The return finds its frame, and restores each register from where entry put it. -/
theorem Entry.return_restores (h : Entry n ra s t) (heven : ra.toNat % 2 = 0)
    (hnone : t.deactivateCurrent.preempting = none) :
    ∃ u, exec (.bx 14 sbBranch) t = .next u ∧ u.r = s.r ∧
      u = { t.deactivateCurrent with
              r := u.r, msp := s.msp, psp := s.psp, lr := s.lr, pc := ra, flags := s.flags, thumb := s.thumb,
              ipsr := s.ipsr, spsel := s.spsel,
              run := if decide (s.ipsr = 0) && t.scr.sleepOnExit then .sleeping .wfi else .running } := by
  obtain ⟨hn, hz, hc, hv, hthumb, halign, hnumber⟩ := stackedPsr_fields s (s.sp.getLsbD 2)
  obtain ⟨hmsp, hpsp⟩ := h.stackPointers_restored
  have hthread : decide (s.excReturn ≠ 0xFFFFFFF1#32) = decide (s.ipsr = 0) := by
    rw [decide_eq_decide, excReturn_toThread]
  have hword := h.frame_word
  obtain ⟨-, -, hreturn⟩ := returnsRestoreTheFrame (.bx 14 sbBranch) t t s.excReturn h.returnsBy_bx h.stacksAligned
    h.returnAgrees hnone h.frame_readable
  beta_reduce at hreturn
  have hfits := h.frameFits
  rw [FrameFits, ← hnumber, ← hword 7 _ rfl] at hfits
  have hra : (wordAt t (nth (frameOf t s.excReturn) 6)).getLsbD 0 = false := by
    rw [hword 6 _ rfl, ← BitVec.testBit_toNat, Nat.testBit_zero, heven]
    rfl
  obtain ⟨u, hexec, hu, h0, h1, h2, h3, h12, hothers⟩ := hreturn hra hfits
  refine ⟨u, hexec, regs_eq_of_x fun m hm => ?registers, ?frame⟩
  case registers =>
    obtain rfl | rfl | rfl | rfl | rfl | ⟨h4, h11⟩ := reg_cases m hm
    · rw [h0, hword 0 _ rfl]
    · rw [h1, hword 1 _ rfl]
    · rw [h2, hword 2 _ rfl]
    · rw [h3, hword 3 _ rfl]
    · rw [h12, hword 4 _ rfl]
    · obtain ⟨-, -, -, -, -, -, -, -, -, -, -, -, -, -, -, -, -, -, hkept, -⟩ := h.entered
      rw [hothers m h4 h11, hkept m h4 h11]
  case frame =>
    rw [hword 5 _ rfl, hword 6 _ rfl, hword 7 _ rfl, hn, hz, hc, hv, hthumb, halign, hnumber, hmsp, hpsp,
      h.spsel_restored, hthread] at hu
    exact hu

/-- Settles O34: entry and return are inverse on what the frame and the EXC_RETURN value hold. -/
theorem entryThenReturnRestores : Obligations.EntryThenReturnRestores := by
  intro s t n ra hinv hrun henter hinactive heven htake hnone
  obtain ⟨t', ht', hentered⟩ := takeException_entered (ra := ra) henter
  obtain rfl : t' = t := by
    rw [htake] at ht'
    exact (Host.Outcome.next.inj ht').symm
  have h : Entry n ra s t' := ⟨hinv, hrun, henter, hinactive, hentered⟩
  obtain ⟨-, -, -, -, -, -, -, -, -, -, -, -, -, -, -, -, -, -, -, hprimask, -, hscr, -⟩ := hentered
  obtain ⟨u, hexec, hr, hu⟩ := h.return_restores heven hnone
  refine ⟨u, hexec, hr, ?_, ?_, ?_, ?_, ?_, ?_, ?_, ?_, ?_, ?_, ?_, ?_⟩
  all_goals rw [hu]
  case refine_9 => exact hprimask
  case refine_10 => exact h.active_deactivated
  case refine_11 => rfl
  case refine_12 => simp [hscr]

end Sys2Proof.Machine
end

section
/-! PROOF. The encodings that are refused, and no others (30_encoding.md R161). The idea: the eight refusals of an
encoding are answered by the guards of a few instructions and by nothing those go on to, so that an instruction is
refused so exactly where one of its guards holds; and its guards are what being well-formed denies. -/

namespace Sys2Proof.Machine

open Sys2Proof.Claims

variable {s t : State} {x : Result} {r : Refusal} {wf : Bool} {a v addr : Word} {n k : Nat} {ra : Word} {α β : Type}

/-! ### Nothing but a guard refuses an encoding -/

/-- The result is none of the refusals of an encoding. -/
def Accepts (x : Result) : Prop := ∀ r ∈ encodingRefusals, x ≠ .refused r

/-- The access answers none of the refusals of an encoding. -/
def Access.Accepts (m : Access α) : Prop := ∀ r ∈ encodingRefusals, m ≠ .refused r

theorem accepts_next (t : State) : Accepts (.next t) := fun _ _ => nofun

theorem accepts_fault (f : Fault) : Accepts (.fault f) := fun _ _ => nofun

theorem accepts_refused (h : r ∉ encodingRefusals) : Accepts (.refused r) := by
  rintro r' hr' heq
  cases heq
  exact h hr'

theorem accepts_ite {c : Prop} [Decidable c] {y : Result} (hx : Accepts x) (hy : Accepts y) :
    Accepts (if c then x else y) := by
  split
  · exact hx
  · exact hy

namespace Access

theorem accepts_ok (a : α) (s : State) : (Access.ok a s).Accepts := fun _ _ => nofun

theorem accepts_abort (c : FaultCause) (s : State) : (Access.abort c s : Access α).Accepts := fun _ _ => nofun

theorem accepts_refused (h : r ∉ encodingRefusals) : (Access.refused r : Access α).Accepts := by
  rintro r' hr' heq
  cases heq
  exact h hr'

/-- A refusal that an access does answer is not of an encoding. -/
theorem Accepts.not_mem {m : Access α} (hm : m.Accepts) (h : m = .refused r) : r ∉ encodingRefusals :=
  fun hr => hm r hr h

theorem Accepts.bind {m : Access α} {f : α → State → Access β} (hm : m.Accepts) (hf : ∀ a t, (f a t).Accepts) :
    (m.bind f).Accepts := by
  cases m with
  | ok a t => exact hf a t
  | abort c t => exact accepts_abort c t
  | refused r => exact accepts_refused (hm.not_mem rfl)

end Access

/-! ### Accesses -/

theorem ppbWrite_accepts (s : State) (v : Word) (reg : PpbReg) : (s.ppbWrite v reg).Accepts := by
  cases reg with
  | icsr =>
    rw [State.ppbWrite]
    split
    · exact Access.accepts_refused (by decide)
    · exact Access.accepts_ok _ _
  | aircr =>
    rw [State.ppbWrite]
    split
    · split
      · exact Access.accepts_refused (by decide)
      · exact Access.accepts_ok _ _
    · exact Access.accepts_ok _ _
  | _ => exact Access.accepts_ok _ _

theorem memRead_accepts (n : Nat) (a : Word) (s : State) : (memRead n a s).Accepts := by
  unfold memRead
  split
  · exact Access.accepts_abort _ _
  · split
    · split
      · exact Access.accepts_refused (by decide)
      · split
        · exact Access.accepts_ok _ _
        · exact Access.accepts_refused (by decide)
    · split
      case h_1 => exact Access.accepts_abort _ _
      all_goals exact Access.accepts_ok _ _

theorem memWrite_accepts (n : Nat) (a v : Word) (s : State) : (memWrite n a v s).Accepts := by
  unfold memWrite
  split
  · exact Access.accepts_abort _ _
  · split
    · split
      · exact Access.accepts_refused (by decide)
      · split
        · exact ppbWrite_accepts _ _ _
        · exact Access.accepts_refused (by decide)
    · split
      case h_1 | h_4 => exact Access.accepts_abort _ _
      all_goals exact Access.accepts_ok _ _

theorem loadWords_accepts (n : Nat) (a : Word) (s : State) : (loadWords n a s).Accepts := by
  induction n generalizing a s with
  | zero => exact Access.accepts_ok _ _
  | succ n ih =>
    exact (memRead_accepts 4 a s).bind fun _ t => (ih (a + 4) t).bind fun _ _ => Access.accepts_ok _ _

theorem storeWords_accepts (ws : List Word) (a : Word) (s : State) : (storeWords ws a s).Accepts := by
  induction ws generalizing a s with
  | nil => exact Access.accepts_ok _ _
  | cons w ws ih => exact (memWrite_accepts 4 a w s).bind fun _ t => ih (a + 4) t

/-! ### Exceptions -/

theorem startDerived_accepts (n : Nat) (s : State) : Accepts (startDerived n s) := by
  unfold startDerived
  split
  case h_1 | h_2 => exact accepts_next _
  case h_3 hm => exact accepts_refused ((memRead_accepts _ _ _).not_mem hm)

theorem startHandler_accepts (n : Nat) (link : Word) (s : State) : Accepts (startHandler n link s) := by
  unfold startHandler
  split
  case h_1 => exact accepts_next _
  case h_2 => exact accepts_ite (accepts_next _) (startDerived_accepts n _)
  case h_3 hm => exact accepts_refused ((memRead_accepts _ _ _).not_mem hm)

theorem enterException_accepts (n : Nat) (ra : Word) (s : State) : Accepts (enterException n ra s) := by
  unfold enterException
  split
  case h_1 => exact startHandler_accepts n _ _
  case h_2 => exact accepts_fault _
  case h_3 hm => exact accepts_refused ((storeWords_accepts _ _ _).not_mem hm)

theorem cutEntry_accepts (k : Nat) (ra : Word) (s : State) : Accepts (cutEntry k ra s) := by
  unfold cutEntry
  split
  case h_1 => exact accepts_next _
  case h_2 => exact accepts_fault _
  case h_3 hm => exact accepts_refused ((storeWords_accepts _ _ _).not_mem hm)

theorem takeException_accepts (n : Nat) (ra : Word) (s : State) : Accepts (takeException n ra s) := by
  unfold takeException
  split
  · exact accepts_ite (cutEntry_accepts _ _ _) (enterException_accepts _ _ _)
  · exact enterException_accepts _ _ _

theorem raiseHardFault_accepts (c : FaultCause) (s : State) : Accepts (raiseHardFault c s) :=
  accepts_ite (accepts_next _) (takeException_accepts _ _ _)

theorem finish_accepts {m : Access α} {f : α → State → Result} (hm : m.Accepts) (hf : ∀ a t, Accepts (f a t)) :
    Accepts (m.finish f) := by
  cases m with
  | ok a t => exact hf a t
  | abort c t => exact raiseHardFault_accepts c t
  | refused r => exact accepts_refused (hm.not_mem rfl)

theorem unstackFrame_accepts (th ps : Bool) (ws : List Word) (psr : Word) (s : State) :
    Accepts (unstackFrame th ps ws psr s) :=
  accepts_ite (accepts_refused (by decide)) <| accepts_ite (accepts_refused (by decide)) <|
    accepts_ite (accepts_refused (by decide)) (accepts_next _)

theorem unstack_accepts (addr : Word) (s : State) : Accepts (unstack addr s) := by
  unfold unstack
  dsimp only
  split
  case h_1 =>
    split
    case h_1 => exact unstackFrame_accepts _ _ _ _ _
    case h_2 => exact accepts_ite (accepts_fault _) (accepts_next _)
    case h_3 hm => exact accepts_refused ((memRead_accepts _ _ _).not_mem hm)
  case h_2 => exact accepts_fault _
  case h_3 hm => exact accepts_refused ((loadWords_accepts _ _ _).not_mem hm)

theorem returnSequence_accepts (addr : Word) (s : State) : Accepts (returnSequence addr s) := by
  unfold returnSequence
  split
  · exact startHandler_accepts _ _ _
  · exact unstack_accepts _ _

theorem exceptionReturn_accepts (addr : Word) (s : State) : Accepts (exceptionReturn addr s) :=
  accepts_ite (accepts_ite (returnSequence_accepts _ _) (accepts_refused (by decide))) <|
    accepts_ite (accepts_ite (accepts_refused (by decide)) (returnSequence_accepts _ _)) (accepts_refused (by decide))

theorem bxWritePc_accepts (addr : Word) (s : State) : Accepts (bxWritePc addr s) :=
  accepts_ite (exceptionReturn_accepts _ _) (accepts_next _)

theorem blxWritePc_accepts (addr : Word) (s : State) : Accepts (blxWritePc addr s) :=
  accepts_ite (accepts_refused (by decide)) (accepts_next _)

/-! ### Loads, stores and transfers -/

theorem loadLow_accepts (n : Nat) (ext : Word → Word) (rt : LowReg) (a : Word) (s : State) :
    Accepts (loadLow n ext rt a s) := finish_accepts (memRead_accepts _ _ _) fun _ _ => accepts_next _

theorem storeLow_accepts (n : Nat) (rt : LowReg) (a : Word) (s : State) : Accepts (storeLow n rt a s) :=
  finish_accepts (memWrite_accepts _ _ _ _) fun _ _ => accepts_next _

theorem transfer_accepts {accesses : Nat → State → Access α} {done : α → State → Result}
    (haccesses : ∀ k t, (accesses k t).Accepts) (hdone : ∀ a t, Accepts (done a t)) (s : State) :
    Accepts (transfer n accesses done s) := by
  unfold transfer
  split
  · exact finish_accepts (haccesses _ _) hdone
  · exact finish_accepts (haccesses _ _) fun _ _ => accepts_next _
  · exact finish_accepts (haccesses _ _) fun _ _ => accepts_next _

theorem loadTransfer_accepts {done : List Word → State → Result} (hdone : ∀ vs t, Accepts (done vs t)) (s : State) :
    Accepts (loadTransfer n a done s) := transfer_accepts (fun _ _ => loadWords_accepts _ _ _) hdone s

theorem storeTransfer_accepts {done : State → Result} (ws : List Word) (hdone : ∀ t, Accepts (done t)) (s : State) :
    Accepts (storeTransfer ws a done s) := transfer_accepts (fun _ _ => storeWords_accepts _ _ _) (fun _ => hdone) s

theorem execSvc_accepts (imm8 : BitVec 8) (s : State) : Accepts (execSvc imm8 s) := by
  refine accepts_ite (raiseHardFault_accepts _ _) ?_
  dsimp only
  split
  · exact takeException_accepts _ _ _
  · exact accepts_next _

theorem execWfe_accepts (s : State) : Accepts (execWfe s) := by
  unfold execWfe
  split
  · exact accepts_refused (by decide)
  · exact accepts_ite (accepts_next _) (accepts_ite (accepts_next _) (accepts_next _))

/-! ### Guards -/

/-- The result is a refusal of an encoding exactly where the instruction is not well-formed. -/
def RefusedExactly (wf : Bool) (x : Result) : Prop := wf = false ↔ ∃ r ∈ encodingRefusals, x = .refused r

theorem Accepts.refusedExactly (hx : Accepts x) (hwf : wf = true) : RefusedExactly wf x := by
  rw [RefusedExactly, hwf]
  exact iff_of_false Bool.noConfusion fun ⟨r, hr, heq⟩ => hx r hr heq

theorem refusedExactly_refused (hr : r ∈ encodingRefusals) (hwf : wf = false) : RefusedExactly wf (.refused r) :=
  iff_of_true hwf ⟨r, hr, rfl⟩

/-- A guard that refuses what is not well-formed, before the rest. -/
theorem refusedExactly_guard {c : Prop} [Decidable c] (hr : r ∈ encodingRefusals) (hc : c → wf = false)
    (hx : ¬ c → RefusedExactly wf x) : RefusedExactly wf (if c then .refused r else x) := by
  split
  case isTrue h => exact refusedExactly_refused hr (hc h)
  case isFalse h => exact hx h

/-! ### The instructions with guards -/

theorem addHigh_refusedExactly (rdn rm : Reg) (s : State) :
    RefusedExactly (Instr.addHigh rdn rm).wellFormed (exec (.addHigh rdn rm) s) :=
  refusedExactly_guard (by decide) (fun h => by simp [Instr.wellFormed, h])
    fun h => (accepts_ite (accepts_next _) (accepts_next _)).refusedExactly (by
      simpa [Instr.wellFormed, ← not_and_or] using not_and.mp h)

theorem cmpHigh_refusedExactly (rn rm : Reg) (s : State) :
    RefusedExactly (Instr.cmpHigh rn rm).wellFormed (exec (.cmpHigh rn rm) s) := by
  refine refusedExactly_guard (by decide) (fun h => ?_) fun h => (accepts_next _).refusedExactly ?_
  · obtain ⟨h1, h2⟩ | h | h := h <;> simp [Instr.wellFormed, *]
  · obtain ⟨hlow, hpc⟩ := not_or.mp h
    have hhigh : ¬ rn.toNat < 8 ∨ ¬ rm.toNat < 8 := not_and_or.mp hlow
    simpa [Instr.wellFormed, and_assoc] using And.intro hhigh (not_or.mp hpc)

/-- BX and BLX. -/
theorem exchange_refusedExactly {rm : Reg} {sb : BitVec 3} (hx : Accepts x) :
    RefusedExactly (sb == sbBranch && rm != 13 && rm != 15)
      (if sb ≠ sbBranch then .refused .shouldBeBits
        else if rm = 13 ∨ rm = 15 then .refused .branchSpOrPc else x) := by
  refine refusedExactly_guard (by decide) (fun h => by simp [h]) fun hsb => ?_
  refine refusedExactly_guard (by decide) (fun h => ?_) fun hrm => hx.refusedExactly ?_
  · obtain rfl | rfl := h <;> simp
  · simpa [not_not.mp hsb] using hrm

/-- CPS and the barriers: one guard, on the should-be bits. -/
theorem shouldBe_refusedExactly {w : Nat} (sb good : BitVec w) (t : State) :
    RefusedExactly (sb == good) (if sb ≠ good then .refused .shouldBeBits else .next t) :=
  refusedExactly_guard (by decide) (fun h => by simp [h]) fun h => (accepts_next _).refusedExactly (by simpa using h)

/-- SYSm names one of eleven registers (45_miscellaneous.md R378). -/
theorem specRegOf_isSome : ∀ sysm : BitVec 8, (specRegOf sysm).isSome = sysmNames.contains sysm := by decide

/-- MRS and MSR. -/
theorem special_refusedExactly {sb good : BitVec 6} {sysm : BitVec 8} {rn : Reg}
    (hnone : specRegOf sysm = none → x = .refused .unknownSysm)
    (hsome : ∀ reg, specRegOf sysm = some reg → Accepts x) :
    RefusedExactly (sb == good && sysmNames.contains sysm && rn != 13 && rn != 15)
      (if sb ≠ good then .refused .shouldBeBits
        else if rn = 13 ∨ rn = 15 then .refused .specialSpOrPc else x) := by
  refine refusedExactly_guard (by decide) (fun h => by simp [h]) fun hsb => ?_
  refine refusedExactly_guard (by decide) (fun h => ?_) fun hrn => ?_
  · obtain rfl | rfl := h <;> simp
  · rw [← specRegOf_isSome]
    cases hreg : specRegOf sysm with
    | none =>
      rw [hnone hreg]
      exact refusedExactly_refused (by decide) (by simp)
    | some reg => exact (hsome reg hreg).refusedExactly (by simpa [not_not.mp hsb] using hrn)

/-- PUSH and POP: a list without a register. -/
theorem list_refusedExactly {p : Bool} {list : RegList} (hx : Accepts x) :
    RefusedExactly (p || list != 0) (if p = false ∧ list = 0 then .refused .emptyRegisterList else x) :=
  refusedExactly_guard (by decide) (fun h => by simp [h]) fun h => hx.refusedExactly (by
    cases p
    · simpa using h
    · rfl)

theorem ldm_refusedExactly (rn : LowReg) (list : RegList) (s : State) :
    RefusedExactly (Instr.ldm rn list).wellFormed (exec (.ldm rn list) s) :=
  refusedExactly_guard (by decide) (fun h => by simp [Instr.wellFormed, h])
    fun h => (loadTransfer_accepts (fun _ _ => accepts_next _) s).refusedExactly (by simpa [Instr.wellFormed] using h)

theorem stm_refusedExactly (rn : LowReg) (list : RegList) (s : State) :
    RefusedExactly (Instr.stm rn list).wellFormed (exec (.stm rn list) s) := by
  refine refusedExactly_guard (by decide) (fun h => by simp [Instr.wellFormed, h]) fun hlist => ?_
  refine refusedExactly_guard (by decide) (fun h => by simp [Instr.wellFormed, h]) fun hbase => ?_
  exact (storeTransfer_accepts _ (fun _ => accepts_next _) s).refusedExactly (by
    simpa [Instr.wellFormed] using And.intro hlist hbase)

theorem pop_accepts (p : Bool) (list : RegList) (s : State) :
    Accepts (loadTransfer (popCount p list) s.sp
      (fun vs t =>
        let u := (t.setListed (listed list) vs).setSp (s.sp + byteCount (popCount p list))
        if p then bxWritePc (vs.getD (listed list).length 0) u else .next (u.advance 2)) s) :=
  loadTransfer_accepts (fun _ _ => accepts_ite (bxWritePc_accepts _ _) (accepts_next _)) s

/-! ### Every instruction -/

theorem exec_refusedExactly (i : Instr) (s : State) (h : i.encodable = true) :
    RefusedExactly i.wellFormed (exec i s) := by
  cases i with
  | lslsImm | lsrsImm | asrsImm | addsReg | subsReg | addsImm3 | subsImm3 | movsImm | cmpImm | addsImm8 | subsImm8
  | ands | eors | lslsReg | lsrsReg | asrsReg | adcs | sbcs | rorsReg | tst | rsbs | cmpReg | cmn | orrs | muls | bics
  | mvns | adr | addSpRd | addSpImm | subSpImm | sxth | sxtb | uxth | uxtb | rev | rev16 | revsh
  | nop | yieldHint | sev | b | bl => exact (accepts_next _).refusedExactly rfl
  | reservedHint => exact (accepts_next _).refusedExactly h
  | movHigh | bCond | wfi => exact (accepts_ite (accepts_next _) (accepts_next _)).refusedExactly rfl
  | ldrLit | ldrsbReg | ldrReg | ldrhReg | ldrbReg | ldrshReg | ldrImm | ldrbImm | ldrhImm | ldrSp =>
    exact (loadLow_accepts _ _ _ _ _).refusedExactly rfl
  | strReg | strhReg | strbReg | strImm | strbImm | strhImm | strSp =>
    exact (storeLow_accepts _ _ _ _).refusedExactly rfl
  | wfe => exact (execWfe_accepts s).refusedExactly rfl
  | svc imm8 => exact (execSvc_accepts imm8 s).refusedExactly rfl
  | udf | udfW => exact (raiseHardFault_accepts .undefinedInstruction s).refusedExactly rfl
  | bkpt =>
    exact (accepts_ite (accepts_refused (by decide)) (raiseHardFault_accepts .bkptNoDebugger s)).refusedExactly rfl
  | addHigh rdn rm => exact addHigh_refusedExactly rdn rm s
  | cmpHigh rn rm => exact cmpHigh_refusedExactly rn rm s
  | bx => exact exchange_refusedExactly (bxWritePc_accepts _ _)
  | blx => exact exchange_refusedExactly (blxWritePc_accepts _ _)
  | cpsie sb => exact shouldBe_refusedExactly sb sbCps _
  | cpsid sb => exact shouldBe_refusedExactly sb sbCps _
  | dsb option sb => exact shouldBe_refusedExactly sb sbBarrier _
  | dmb option sb => exact shouldBe_refusedExactly sb sbBarrier _
  | isb option sb => exact shouldBe_refusedExactly sb sbBarrier _
  | msr rn sysm sb | mrs rn sysm sb =>
    refine special_refusedExactly (fun hreg => ?_) fun reg hreg => ?_ <;> rw [hreg]
    exact accepts_next _
  | push m list => exact list_refusedExactly (storeTransfer_accepts _ (fun _ => accepts_next _) s)
  | pop p list => exact list_refusedExactly (pop_accepts p list s)
  | ldm rn list => exact ldm_refusedExactly rn list s
  | stm rn list => exact stm_refusedExactly rn list s

/-- Settles O4: instruction by instruction, the guards are the denial of being well-formed. -/
theorem unpredictableEncodingsRefused : Obligations.UnpredictableEncodingsRefused :=
  fun i s h => exec_refusedExactly i s h

end Sys2Proof.Machine
end
